-- ==== Sys2Proof/Word.lean ====
section
/-! DEFINITION. The words HUFFCORE computes with (00_scope.md rules R7 to R10): the 32-bit register and
bus word, the byte, the 9-bit node index, the bit string, the tree node, and a table of a fixed size
written entry by entry. -/

namespace Sys2Proof

/-- A register, a bus word, a count or a weight: 32 bits, unsigned (R7). -/
abbrev Word := BitVec 32

/-- A symbol or a memory byte: 8 bits (R7, R8). -/
abbrev Byte := BitVec 8

/-- An index of the node store: 9 bits (R7). -/
abbrev NodeIx := BitVec 9

/-- The node index that means "no node" (R7, R14). -/
abbrev NIL : NodeIx := 0x1FF#9

/-- A code or a piece of the payload stream, the first bit at the head (R10); `false` is 0, `true` is 1. -/
abbrev BitString := List Bool

/-- An entry of the node store, the source's tagged variant of 10_state.md rule R46: a leaf holds a symbol
and its weight, an internal node its weight and its two children. -/
inductive Node where
  | leaf (sym : Byte) (w : Word)
  | internal (w : Word) (left right : NodeIx)
deriving DecidableEq, Repr, Inhabited

/-- The table of `n` entries whose entry `i` is `f i`. -/
def tabulate {α : Type} (n : Nat) (f : Nat → α) : Vector α n :=
  ⟨⟨(List.range n).map f⟩, by simp⟩

end Sys2Proof
end

