-- ==== Sys2Proof/Syntax.lean ====
section
/-! DEFINITION. The commands of HUFFCORE, one constructor per row of spec/opcode_table.json (30_encoding.md rules
R104 and R105). Commands have no operand fields (R103); only the illegal words carry the bits that make them so. -/

namespace Sys2Proof

/-- A command word, decoded. -/
inductive Instr where
  /-- CLEAR, 0x01 (46_control.md R223). -/
  | clear
  /-- FREQ_SCAN, 0x02 (40_frequency.md R140). -/
  | freqScan
  /-- BUILD_TREE, 0x03 (41_tree_builder.md R150). -/
  | buildTree
  /-- GEN_CODES, 0x04 (42_code_table.md R170). -/
  | genCodes
  /-- PACK, 0x05 (43_bit_packer.md R180). -/
  | pack
  /-- FRAME, 0x06 (45_container.md R200). -/
  | frame
  /-- PARSE, 0x07 (45_container.md R202). -/
  | parse
  /-- UNPACK, 0x08 (44_bit_unpacker.md R190). -/
  | unpack
  /-- COMPRESS, 0x09 (46_control.md R224). -/
  | compress
  /-- DECOMPRESS, 0x0A (46_control.md R225). -/
  | decompress
  /-- The reserved OPCODE 0x00 (30_encoding.md R105). -/
  | illegalOpcode00
  /-- A reserved OPCODE 0x0B to 0xFF (30_encoding.md R105). -/
  | illegalOpcode0BFF (opcode : Byte)
  /-- A word whose RSVD field is not 0, whatever its OPCODE (30_encoding.md R102). -/
  | illegalRsvd (rsvd : BitVec 24) (opcode : Byte)
deriving DecidableEq, Repr

end Sys2Proof
end

