-- ==== Sys2Proof/WellFormed.lean ====
section
/-! DEFINITION. Which terms of `Instr` stand for a command word (30_encoding.md rule R105): the operands of the two
illegal rows that carry any must be such that the word is illegal for that row's reason. -/

namespace Sys2Proof

/-- An opcode of the reserved range 0x0B to 0xFF (R105). -/
def reservedOpcode (opcode : Byte) : Bool := decide (0x0B ≤ opcode.toNat)

/-- A reserved field that makes the word illegal (R102). -/
def nonzeroRsvd (rsvd : BitVec 24) : Bool := decide (rsvd ≠ 0)

/-- The instruction stands for a command word. -/
def Instr.wellFormed : Instr → Bool
  | .clear => true
  | .freqScan => true
  | .buildTree => true
  | .genCodes => true
  | .pack => true
  | .frame => true
  | .parse => true
  | .unpack => true
  | .compress => true
  | .decompress => true
  | .illegalOpcode00 => true
  | .illegalOpcode0BFF opcode => reservedOpcode opcode
  | .illegalRsvd rsvd _ => nonzeroRsvd rsvd

end Sys2Proof
end

