-- ==== Sys2Proof/Decode.lean ====
section
/-! DEFINITION. The command word (30_encoding.md rules R100 to R106): its two fields, the decoder, which is total
(R106: every word is a command, the illegal ones included), and after it the encoder, written from the opcode map
of R104. -/

namespace Sys2Proof

/-- OPCODE = CMD[7:0] (R101). -/
def opcodeOf (w : Word) : Byte := w.extractLsb' 0 8

/-- RSVD = CMD[31:8] (R100, R102). -/
def rsvdOf (w : Word) : BitVec 24 := w.extractLsb' 8 24

/-- The opcode map, for a word whose RSVD field is 0 (R104, R105). -/
def decodeOpcode (opcode : Byte) : Instr :=
  match opcode.toNat with
  | 0x00 => .illegalOpcode00
  | 0x01 => .clear
  | 0x02 => .freqScan
  | 0x03 => .buildTree
  | 0x04 => .genCodes
  | 0x05 => .pack
  | 0x06 => .frame
  | 0x07 => .parse
  | 0x08 => .unpack
  | 0x09 => .compress
  | 0x0A => .decompress
  | _ => .illegalOpcode0BFF opcode

/-- decode(w) of R106: the RSVD check first, then the opcode map. -/
def decode (w : Word) : Instr :=
  if rsvdOf w = 0 then decodeOpcode (opcodeOf w) else .illegalRsvd (rsvdOf w) (opcodeOf w)

/-- The decoder on a word as spec/opcode_table.json numbers its bits: the command word is the whole instruction,
so a row of more than 32 bits has none. -/
def decodeTableWord (nbits w : Nat) : Option Instr :=
  if nbits ≤ 32 then some (decode (BitVec.ofNat 32 (w % 2 ^ nbits))) else none

/-- The command word of an instruction: RSVD above OPCODE (R100), the opcode from R104. -/
def encode : Instr → Word
  | .clear => 0x00000001#32
  | .freqScan => 0x00000002#32
  | .buildTree => 0x00000003#32
  | .genCodes => 0x00000004#32
  | .pack => 0x00000005#32
  | .frame => 0x00000006#32
  | .parse => 0x00000007#32
  | .unpack => 0x00000008#32
  | .compress => 0x00000009#32
  | .decompress => 0x0000000A#32
  | .illegalOpcode00 => 0x00000000#32
  | .illegalOpcode0BFF opcode => (0 : BitVec 24) ++ opcode
  | .illegalRsvd rsvd opcode => rsvd ++ opcode

end Sys2Proof
end

