-- ==== Sys2Proof/Config.lean ====
section
/-! DEFINITION. What HUFFCORE's spec leaves to the implementation (the capacities, 00_scope.md rule R6) and what
it leaves open for good (`draw`, R12; 93_implementation_defined.md section 2). Every constant here is opaque: no
proof can see a value of it, so what is proved holds whatever the value is. -/

namespace Sys2Proof

/-- DESIGN CHOICE (log entry 1): how far the parameter IN_CAP stands above its least legal value 5 (R6). -/
opaque Config.inCapExtra : Fin (2 ^ 30 - 5 + 1)

/-- DESIGN CHOICE (log entry 1): how far the parameter OUT_CAP stands above its least legal value 5 (R6). -/
opaque Config.outCapExtra : Fin (2 ^ 30 - 5 + 1)

/-- The parameter IN_CAP, in 5 to 2^30 (R6). -/
def Config.inCap : Nat := Config.inCapExtra.val + 5

/-- The parameter OUT_CAP, in 5 to 2^30 (R6). -/
def Config.outCap : Nat := Config.outCapExtra.val + 5

/-- The byte that draw number `seed` left at offset `a` of IN_MEM (70_reset_and_hazards.md R262; log entry 2). -/
opaque Config.freeInByte (seed a : Nat) : Byte

/-- The byte that draw number `seed` left at offset `a` of OUT_MEM (R262, 60_exceptions.md R238; log entry 2). -/
opaque Config.freeOutByte (seed a : Nat) : Byte

/-- What reset number `seed` left in node store entry `i` (10_state.md R57; log entry 3). -/
opaque Config.freeNode (seed i : Nat) : Node

/-- What reset number `seed` left in code store entry `s` (10_state.md R57; log entry 3). -/
opaque Config.freeCode (seed s : Nat) : BitString

/-- The entry NODE[0x1FF], which the store does not have (10_state.md R46; log entry 8). -/
opaque Config.noNode : Node

/-- Draw number `k` of a 32-bit register read while BUSY (10_state.md R55; log entry 4). -/
opaque Config.freeWord (k : Nat) : Word

/-- Draw number `k` of a window byte read while BUSY (10_state.md R55; log entry 4). -/
opaque Config.freeByte (k : Nat) : Byte

/-- The ERR_INFO value for the number `info`, which 32 bits cannot hold: the spec states none (log entry 6). The same
number always gives the same value (60_exceptions.md R241). -/
opaque Config.freeInfo (info : Nat) : Word

end Sys2Proof
end

