-- ==== Sys2Proof/Machine/State.lean ====
section
/-! DEFINITION. Everything the spec gives HUFFCORE to hold (10_state.md; 20_memory.md rules R71 and R72), the
reasons a step could stop, and the machine right after reset (10_state.md rule R57). The last five fields of State
are the model's own (log entries 4 and 5): the counter of draws, which draw filled each memory, the host's script
and the replies the bus gave it. -/

namespace Sys2Proof.Machine

/-- The error codes ERR_CODE can hold (60_exceptions.md rule R231); no other code is ever written. -/
inductive ErrCode where
  /-- 0x00: the command succeeded. -/
  | none
  | illegalCmd
  | sequence
  | inLenRange
  | outOverflow
  | symbolAbsent
  | weightOverflow
  | mcShortHeader
  | mcLength
  | mcTableFormat
  | mcTableOrder
  | mcTableZero
  | mcPadding
  | mcPadEmpty
  | desync
deriving DecidableEq, Repr

/-- One move of the world outside CORE, in the order the host makes them (20_memory.md R75; 30_encoding.md R121,
R122; 70_reset_and_hazards.md R260, R271). -/
inductive HostMove where
  /-- `Read(addr, size)` (R75). -/
  | read (addr : Word) (size : Nat)
  /-- `Write(addr, size, data)` (R75); only the low size*8 bits of the data count. -/
  | write (addr : Word) (size : Nat) (data : Word)
  /-- The pseudo-instruction `wait` (R122): poll STATUS until BUSY reads 0. -/
  | wait
  /-- The pseudo-instruction `dump` (R122): read OUT_LEN, then that many bytes of OUT. -/
  | dump
  /-- The line `step` of 95_test_vectors.md L3.5: CORE's turn, if it has a step. -/
  | core
  /-- The platform asserts the hardware reset (R260, R261). -/
  | reset
deriving DecidableEq, Repr

/-- The response of a bus transaction (20_memory.md R75). -/
inductive Resp where
  | okay
  | slverr
deriving DecidableEq, Repr

/-- What the bus gives back for one transaction (20_memory.md R75). -/
inductive BusReply where
  | read (data : Word) (resp : Resp)
  | write (resp : Resp)
deriving DecidableEq, Repr

/-- A byte memory: the bytes written since its last draw, by strictly rising address. An address it does not list
holds no written byte. -/
abbrev Memory := List Host.Cell

/-- The canonical form of a memory: strictly rising addresses. An unlisted address reads as "no byte written",
which no entry is. -/
abbrev Memory.wf (m : Memory) : Prop := m.Pairwise (fun x y => x.1 < y.1)

/-- HUFFCORE has no fault that stops it: every command completes and every transaction gets a response
(93_implementation_defined.md section 4; 60_exceptions.md R254). -/
inductive Fault where
deriving DecidableEq, Repr

/-- Why the model gives an instruction no meaning. -/
inductive Refusal where
  /-- An instruction without a meaning yet, by its mnemonic; raised by arms of Machine/Dispatch.lean only, safe.
  No arm raises it now. -/
  | notModelled (mnemonic : String)
deriving DecidableEq, Repr

/-- The state of HUFFCORE, its host and its bus. -/
structure State where
  /-- CMD (10_state.md R25). -/
  cmd : Word
  /-- STATUS.BUSY, the run state (R22, R27). -/
  busy : Bool
  /-- STATUS.ERR (R28). -/
  err : Bool
  /-- STATUS.OVERRUN (R29). -/
  overrun : Bool
  /-- STATUS.TREE_VALID (R30). -/
  treeValid : Bool
  /-- STATUS.CODES_VALID (R31). -/
  codesValid : Bool
  /-- STATUS.PACKED (R32). -/
  packed : Bool
  /-- STATUS.PARSED (R33). -/
  parsed : Bool
  /-- ERR_CODE (R34). -/
  errCode : ErrCode
  /-- ERR_INFO (R35). -/
  errInfo : Word
  /-- IN_LEN (R36). -/
  inLen : Word
  /-- OUT_LEN (R37). -/
  outLen : Word
  /-- PAD, bits 2:0 (R38). -/
  pad : BitVec 3
  /-- NSYM, 0 to 256 (R39). -/
  nsym : BitVec 9
  /-- NNODES, 0 to 511 (R39). -/
  nnodes : BitVec 9
  /-- ROOT, NIL when there is none (R39). -/
  root : NodeIx
  /-- PAYLOAD_OFF (R41). -/
  payloadOff : Word
  /-- PAYLOAD_LEN (R41). -/
  payloadLen : Word
  /-- BITLEN = BITLEN_HI and BITLEN_LO together (R42). -/
  bitlen : BitVec 64
  /-- IRQ_EN.IE (R43). -/
  irqEn : Bool
  /-- IRQ_STATUS.DONE (R43). -/
  irqDone : Bool
  /-- IN_CAP, the size of IN_MEM (R40; 00_scope.md R6). -/
  inCap : Nat
  /-- OUT_CAP, the size of OUT_MEM (R40; 00_scope.md R6). -/
  outCap : Nat
  /-- FREQ[0..255] (R44). -/
  freq : Vector Word 256
  /-- NODE[0..510] (R46). -/
  nodes : Vector Node 511
  /-- CODE[0..255] (R48). The type bounds no length; a code of more than 255 bits (00_scope.md R7) stands here only
  where no window shows it (log entries 3 and 8). -/
  codes : Vector BitString 256
  /-- IN_MEM: the bytes written since the last reset (20_memory.md R71). -/
  inMem : Memory
  /-- OUT_MEM: the bytes written since it was last drawn (20_memory.md R72). -/
  outMem : Memory
  /-- The model's own: the draw that last filled IN_MEM (70_reset_and_hazards.md R262). -/
  inSeed : Nat
  /-- The model's own: the draw that last filled OUT_MEM (R262, 60_exceptions.md R238). -/
  outSeed : Nat
  /-- The model's own: the number of the next draw (00_scope.md R12). -/
  fresh : Nat
  /-- The model's own: the moves the outside world still makes (70_reset_and_hazards.md R275). -/
  script : List HostMove
  /-- The model's own: what the bus answered so far, the newest first (20_memory.md R75). -/
  replies : List BusReply
deriving DecidableEq, Repr

/-- The state after a hardware reset of a HUFFCORE with the given capacities (R57), `seed` being the number of the
draw that fills the memories and the stores; nothing of the outside world is pending. -/
def State.resetWith (inCap outCap seed : Nat) : State where
  cmd := 0
  busy := false
  err := false
  overrun := false
  treeValid := false
  codesValid := false
  packed := false
  parsed := false
  errCode := .none
  errInfo := 0
  inLen := 0
  outLen := 0
  pad := 0
  nsym := 0
  nnodes := 0
  root := NIL
  payloadOff := 0
  payloadLen := 0
  bitlen := 0
  irqEn := false
  irqDone := false
  inCap := inCap
  outCap := outCap
  freq := tabulate 256 fun _ => 0
  nodes := tabulate 511 fun i => Config.freeNode seed i
  codes := tabulate 256 fun s => Config.freeCode seed s
  inMem := []
  outMem := []
  inSeed := seed
  outSeed := seed
  fresh := seed + 1
  script := []
  replies := []

/-- The machine right after reset (R57, 70_reset_and_hazards.md R260). -/
def State.reset : State := State.resetWith Config.inCap Config.outCap 0

end Sys2Proof.Machine
end

