-- ==== Sys2Proof/Machine/Ops.lean ====
section
/-! DEFINITION. The named operations over memory and state that the command rules share: a byte memory's read and
write (20_memory.md R71, R72), the acceptance of a command (46_control.md R220), the taking of an error
(60_exceptions.md R236 to R239) and the completion of a CORE step (46_control.md R222). The return from an error is
the next acceptance (60_exceptions.md R241). -/

namespace Sys2Proof.Machine

/-- The byte written at address `a`, if one was. -/
def Memory.find : Memory → Nat → Option Byte
  | [], _ => none
  | (b, v) :: m, a => if b = a then some v else if a < b then none else Memory.find m a

/-- Write byte `v` at address `a`, keeping the addresses strictly rising. -/
def Memory.set : Memory → Nat → Byte → Memory
  | [], a, v => [(a, v)]
  | (b, w) :: m, a, v =>
    if b = a then (a, v) :: m
    else if a < b then (a, v) :: (b, w) :: m
    else (b, w) :: Memory.set m a v

/-- Write the bytes at `base`, `base + 1`, ... in order. -/
def Memory.writeBytes : Memory → Nat → List Byte → Memory
  | m, _, [] => m
  | m, base, v :: vs => Memory.writeBytes (Memory.set m base v) (base + 1) vs

/-- How the body of a command rule ends: done, or `raise e(info)` (00_scope.md R12) with the error effects of its
rule already in the state (46_control.md R222). The information word is the number the rule gives. -/
inductive Result where
  | done (s : State)
  | raised (s : State) (e : ErrCode) (info : Nat)
deriving DecidableEq, Repr

/-- Acceptance of the command word `v` (46_control.md R220). It is also what ends the report of an error
(60_exceptions.md R241). -/
def State.accept (s : State) (v : Word) : State :=
  { s with cmd := v, busy := true, err := false, overrun := false, errCode := .none, errInfo := 0 }

/-- The completion of a CORE step (46_control.md R222): the error code, its information word and its flag, then
IRQ_STATUS.DONE set and STATUS.BUSY cleared. -/
def State.finish (s : State) (e : ErrCode) (info : Word) (err : Bool) : State :=
  { s with errCode := e, errInfo := info, err := err, irqDone := true, busy := false }

/-- The ERR_INFO word for the number a rule gives (60_exceptions.md R232). DESIGN CHOICE (log entry 6), safe: a number
that 32 bits cannot hold has no ERR_INFO value in the spec, and a free value of that number is recorded, so that the
same error reports the same word again (R241). -/
def errInfoWord (info : Nat) : Word := if info < 2 ^ 32 then BitVec.ofNat 32 info else Config.freeInfo info

/-- TAKING AN ERROR (60_exceptions.md R236), the one operation every command shares. -/
def State.takeError (s : State) (e : ErrCode) (info : Nat) : State := s.finish e (errInfoWord info) true

/-- The end of a CORE step (46_control.md R222). -/
def complete : Result → State
  | .done s => s.finish .none 0 false
  | .raised s e info => s.takeError e info

/-- The effects of a data-phase error (60_exceptions.md R238): no output length, no packed payload, and every byte
of OUT_MEM drawn afresh. -/
def State.dataPhaseError (s : State) : State :=
  { s with outLen := 0, packed := false, outMem := [], outSeed := s.fresh, fresh := s.fresh + 1 }

/-- Composite execution (46_control.md R227): each step commits before the next starts; the first that raises ends
the composite, which then sets OUT_LEN to 0 (60_exceptions.md R239). -/
def runSteps : List (State → Result) → State → Result
  | [], s => .done s
  | body :: rest, s =>
    match body s with
    | .done s' => runSteps rest s'
    | .raised s' e info => .raised { s' with outLen := 0 } e info

end Sys2Proof.Machine
end

