-- ==== Sys2Proof/Machine/Flags.lean ====
section
/-! DEFINITION. STATUS and its flags (10_state.md R26 to R33), the prerequisite check (46_control.md R221), the byte
that stands for an error code (60_exceptions.md R231) and the interrupt output (R244). -/

namespace Sys2Proof.Machine

/-- The STATUS bit of TREE_VALID (R26). -/
def treeValidBit : Word := 0x10#32

/-- The STATUS bit of CODES_VALID (R26). -/
def codesValidBit : Word := 0x20#32

/-- The STATUS bit of PACKED (R26). -/
def packedBit : Word := 0x40#32

/-- The STATUS bit of PARSED (R26). -/
def parsedBit : Word := 0x80#32

/-- One bit of a 32-bit word: `bit` when the flag is 1, else 0. -/
def flagBit (flag : Bool) (bit : Word) : Word := if flag then bit else 0

/-- The STATUS register (R26); bit 3 and bits 31:8 read 0. -/
def statusWord (s : State) : Word :=
  flagBit s.busy 0x01#32 ||| flagBit s.err 0x02#32 ||| flagBit s.overrun 0x04#32
    ||| flagBit s.treeValid treeValidBit ||| flagBit s.codesValid codesValidBit
    ||| flagBit s.packed packedBit ||| flagBit s.parsed parsedBit

/-- The mask of the STATUS bits a command needs that are 0 (46_control.md R221, 60_exceptions.md R232). -/
def missingFlags (s : State) (need : Word) : Word := need &&& ~~~ statusWord s

/-- What an accepted FREQ write and a successful FREQ_SCAN do to the validity flags (R45, 40_frequency.md R140). -/
def State.invalidate (s : State) : State :=
  { s with treeValid := false, codesValid := false, packed := false, parsed := false }

/-- ERR_CODE[7:0] (60_exceptions.md R231). -/
def errByte : ErrCode → Byte
  | .none => 0x00#8
  | .illegalCmd => 0x01#8
  | .sequence => 0x02#8
  | .inLenRange => 0x03#8
  | .outOverflow => 0x04#8
  | .symbolAbsent => 0x05#8
  | .weightOverflow => 0x06#8
  | .mcShortHeader => 0x10#8
  | .mcLength => 0x11#8
  | .mcTableFormat => 0x12#8
  | .mcTableOrder => 0x13#8
  | .mcTableZero => 0x14#8
  | .mcPadding => 0x15#8
  | .mcPadEmpty => 0x16#8
  | .desync => 0x20#8

/-- The interrupt output, a level (60_exceptions.md R244). -/
def irq (s : State) : Bool := s.irqEn && s.irqDone

end Sys2Proof.Machine
end

