-- ==== Sys2Proof/Machine/Operands.lean ====
section
/-! DEFINITION. The implicit operands of the commands (30_encoding.md R103): a byte of IN_MEM or OUT_MEM, an entry
of FREQ, of the node store and of the code store, and the bit and byte orders they are read and written in
(00_scope.md R10 to R12; 20_memory.md R85, R87). -/

namespace Sys2Proof.Machine

/-- `MemRead(IN, a, 1)`: the byte last written there, or the byte reset left (70_reset_and_hazards.md R262;
log entry 2). -/
def inByte (s : State) (a : Nat) : Byte := (Memory.find s.inMem a).getD (Config.freeInByte s.inSeed a)

/-- The byte of OUT_MEM at offset `a`: the byte last written there, or the one reset or a data-phase error left
(20_memory.md R82; log entry 2). -/
def outByte (s : State) (a : Nat) : Byte := (Memory.find s.outMem a).getD (Config.freeOutByte s.outSeed a)

/-- The `n` bytes of IN_MEM from offset `base` on. -/
def inBytes (s : State) (base n : Nat) : List Byte := (List.range n).map fun k => inByte s (base + k)

/-- The `n` bytes of OUT_MEM from offset `base` on. -/
def outBytes (s : State) (base n : Nat) : List Byte := (List.range n).map fun k => outByte s (base + k)

/-- FREQ[sym] (10_state.md R44). -/
def freqOf (s : State) (sym : Byte) : Word := s.freq[sym.toNat]'sym.isLt

/-- NODE[i] (10_state.md R46); the store has no entry 0x1FF (log entry 8). -/
def nodeAt (nodes : Vector Node 511) (i : NodeIx) : Node :=
  if h : i.toNat < 511 then nodes[i.toNat] else Config.noNode

/-- CODE[sym] (10_state.md R48). -/
def codeOf (codes : Vector BitString 256) (sym : Byte) : BitString := codes[sym.toNat]'sym.isLt

/-- The weight of a node (10_state.md R46). -/
def nodeWeight : Node → Word
  | .leaf _ w => w
  | .internal w _ _ => w

/-- The size of a container header for a table of `k` records: 4-byte prefix, 5k table bytes, padding byte
(43_bit_packer.md R183). -/
def headerLen (k : Nat) : Nat := 5 + 5 * k

/-- The number a bit string stands for, its first bit the most significant. -/
def bitsToNat (bits : BitString) : Nat := bits.foldl (fun n b => 2 * n + b.toNat) 0

/-- The bits of a byte, most significant first (20_memory.md R87). -/
def byteBits (b : Byte) : BitString :=
  [b.getLsbD 7, b.getLsbD 6, b.getLsbD 5, b.getLsbD 4, b.getLsbD 3, b.getLsbD 2, b.getLsbD 1, b.getLsbD 0]

/-- The bit stream of a byte sequence (00_scope.md R10, R12 `InBit`). -/
def bytesToBits (bytes : List Byte) : BitString := bytes.flatMap byteBits

/-- The byte cut (43_bit_packer.md R184): eight bits a byte, the first of them bit 7. -/
def bitsToBytes : BitString → List Byte
  | b7 :: b6 :: b5 :: b4 :: b3 :: b2 :: b1 :: b0 :: rest =>
    BitVec.ofNat 8 (bitsToNat [b7, b6, b5, b4, b3, b2, b1, b0]) :: bitsToBytes rest
  | _ => []

/-- The padding-count of a bit string of `len` bits (43_bit_packer.md R182). -/
def padCount (len : Nat) : Nat := (8 - len % 8) % 8

/-- `BE32(b0 b1 b2 b3)` (00_scope.md R11). -/
def be32 (b0 b1 b2 b3 : Byte) : Word := b0 ++ b1 ++ b2 ++ b3

/-- `BE32bytes(v)` (00_scope.md R11). -/
def be32Bytes (v : Word) : List Byte :=
  [v.extractLsb' 24 8, v.extractLsb' 16 8, v.extractLsb' 8 8, v.extractLsb' 0 8]

end Sys2Proof.Machine
end

