-- ==== Sys2Proof/Machine/BitPacker.lean ====
section
/-! DEFINITION. The Bit Packer (43_bit_packer.md): PACK. -/

namespace Sys2Proof.Machine

/-- The lowest offset, from `a` on, of a byte that has no code (R180). -/
def firstAbsent (codes : Vector BitString 256) : List Byte → (a : Nat) → Option Nat
  | [], _ => none
  | b :: bs, a => if codeOf codes b = [] then some a else firstAbsent codes bs (a + 1)

/-- The bit stream B: the codes of the bytes, in input order (R181). -/
def bitStream (codes : Vector BitString 256) (bytes : List Byte) : BitString := bytes.flatMap (codeOf codes)

/-- The padded bit stream D: the least number of 0 bits that fills the last byte (R182). -/
def padded (bits : BitString) : BitString := bits ++ List.replicate (padCount bits.length) false

/-- The body of PACK (R180): the payload goes behind the header FRAME will write (R183). -/
def packBody (s : State) : Result :=
  let miss := missingFlags s codesValidBit
  if miss ≠ 0 then .raised s .sequence miss.toNat
  else if s.inLen.toNat > s.inCap then .raised s .inLenRange s.inLen.toNat
  else
    let input := inBytes s 0 s.inLen.toNat
    match firstAbsent s.codes input 0 with
    | some a => .raised s.dataPhaseError .symbolAbsent a
    | none =>
      let bits := bitStream s.codes input
      let payload := bitsToBytes (padded bits)
      let h := headerLen s.nsym.toNat
      if h + payload.length > s.outCap then
        .raised s.dataPhaseError .outOverflow (min (h + payload.length) 0xFFFFFFFF)
      else .done { s with
        outMem := Memory.writeBytes s.outMem h payload
        outLen := BitVec.ofNat 32 (h + payload.length)
        pad := BitVec.ofNat 3 (padCount bits.length)
        bitlen := BitVec.ofNat 64 bits.length
        packed := true
        parsed := false }

/-- PACK as one CORE step (R180, 46_control.md R222). -/
def execPack (s : State) : Host.Outcome State Fault Refusal := .next (complete (packBody s))

end Sys2Proof.Machine
end

