-- ==== Sys2Proof/Machine/BitUnpacker.lean ====
section
/-! DEFINITION. The Bit Unpacker (44_bit_unpacker.md): UNPACK. A walk answers the bytes it emits, or the error it
raises with its information word; the walk position and the counters are local to the command (10_state.md R52). -/

namespace Sys2Proof.Machine

/-- `emit(v)` of R190 and R196: one more byte behind the `n` bytes emitted so far, which `out` holds newest
first. -/
def emit (outCap n : Nat) (v : Byte) (out : List Byte) : Except (ErrCode × Nat) (List Byte) :=
  if n = outCap then .error (.outOverflow, n + 1) else .ok (v :: out)

/-- The single-leaf walk (R193): each 0 bit emits the symbol, a 1 bit desynchronises. `j` is the index of the next
bit and so also the number of bytes emitted. -/
def singleLeafWalk (sym : Byte) (outCap : Nat) :
    BitString → (j : Nat) → (out : List Byte) → Except (ErrCode × Nat) (List Byte)
  | [], _, out => .ok out
  | true :: _, j, _ => .error (.desync, j)
  | false :: bits, j, out =>
    match emit outCap j sym out with
    | .error e => .error e
    | .ok out' => singleLeafWalk sym outCap bits (j + 1) out'

/-- The walk (R192): one bit a step, 0 to the left and 1 to the right; a leaf emits its symbol and resets the walk
to the root; after the last bit the walk must be at the root (R195). `j` is the index of the next bit, `n` the
number of bytes emitted. -/
def treeWalk (nodes : Vector Node 511) (root : NodeIx) (outCap : Nat) :
    BitString → (cur : NodeIx) → (j n : Nat) → (out : List Byte) → Except (ErrCode × Nat) (List Byte)
  | [], cur, j, _, out => if cur = root then .ok out else .error (.desync, j)
  | bit :: bits, cur, j, n, out =>
    let next := match nodeAt nodes cur with
      | .leaf _ _ => NIL
      | .internal _ left right => if bit then right else left
    match nodeAt nodes next with
    | .internal _ _ _ => treeWalk nodes root outCap bits next (j + 1) n out
    | .leaf sym _ =>
      match emit outCap n sym out with
      | .error e => .error e
      | .ok out' => treeWalk nodes root outCap bits root (j + 1) (n + 1) out'

/-- The bytes a bit string decodes to through a tree (R190): the empty tree decodes only the empty string (R194). -/
def decodeBits (nodes : Vector Node 511) (root : NodeIx) (outCap : Nat) (bits : BitString) :
    Except (ErrCode × Nat) (List Byte) :=
  let walked :=
    if root = NIL then (if bits = [] then .ok [] else .error (.desync, 0))
    else match nodeAt nodes root with
      | .leaf sym _ => singleLeafWalk sym outCap bits 0 []
      | .internal _ _ _ => treeWalk nodes root outCap bits root 0 0 []
  match walked with
  | .error e => .error e
  | .ok out => .ok out.reverse

/-- The retained bits of the parsed payload (R191): all but the last padding-count. DEDUCED (log entry 12), unsafe: the
payload is read where PARSE found it, whatever IN_LEN holds by now, as R190 and 20_memory.md R90 say, while
70_reset_and_hazards.md R262 says that no command reads IN_MEM outside [0, IN_LEN). -/
def retainedBits (s : State) : BitString :=
  (bytesToBits (inBytes s s.payloadOff.toNat s.payloadLen.toNat)).take (8 * s.payloadLen.toNat - s.pad.toNat)

/-- The body of UNPACK (R190). -/
def unpackBody (s : State) : Result :=
  let miss := missingFlags s (treeValidBit ||| parsedBit)
  if miss ≠ 0 then .raised s .sequence miss.toNat
  else
    match decodeBits s.nodes s.root s.outCap (retainedBits s) with
    | .error e => .raised s.dataPhaseError e.1 e.2
    | .ok out => .done { s with
        outMem := Memory.writeBytes s.outMem 0 out
        outLen := BitVec.ofNat 32 out.length
        bitlen := BitVec.ofNat 64 (retainedBits s).length
        packed := false }

/-- UNPACK as one CORE step (R190, 46_control.md R222). -/
def execUnpack (s : State) : Host.Outcome State Fault Refusal := .next (complete (unpackBody s))

end Sys2Proof.Machine
end

