-- ==== Sys2Proof/Machine/CodeTable.lean ====
section
/-! DEFINITION. The Code Table Generator (42_code_table.md): GEN_CODES. -/

namespace Sys2Proof.Machine

/-- `walk(i, p)` of R170: the path grows by 0 to the left and by 1 to the right, and a leaf's path is its symbol's
code (R171). `fuel` bounds the depth; a tree of 511 nodes never uses 511 of it (log entry 8). -/
def walkCodes (nodes : Vector Node 511) :
    (fuel : Nat) → NodeIx → BitString → Vector BitString 256 → Vector BitString 256
  | 0, _, _, c => c
  | fuel + 1, i, p, c =>
    match nodeAt nodes i with
    | .leaf sym _ => c.set sym.toNat p sym.isLt
    | .internal _ left right =>
      walkCodes nodes fuel right (p ++ [true]) (walkCodes nodes fuel left (p ++ [false]) c)

/-- The code table before the walk: no symbol has a code (R170). -/
def noCodes : Vector BitString 256 := tabulate 256 fun _ => []

/-- The codes of a tree (R170): none for the empty tree (R173), "0" for a single leaf (R172), else the paths. -/
def codesOf (nodes : Vector Node 511) (root : NodeIx) : Vector BitString 256 :=
  if root = NIL then noCodes
  else match nodeAt nodes root with
    | .leaf sym _ => noCodes.set sym.toNat [false] sym.isLt
    | .internal _ _ _ => walkCodes nodes 511 root [] noCodes

/-- The body of GEN_CODES (R170). -/
def genCodesBody (s : State) : Result :=
  let miss := missingFlags s treeValidBit
  if miss ≠ 0 then .raised s .sequence miss.toNat
  else .done { s with codes := codesOf s.nodes s.root, codesValid := true, packed := false }

/-- GEN_CODES as one CORE step (R170, 46_control.md R222). -/
def execGenCodes (s : State) : Host.Outcome State Fault Refusal := .next (complete (genCodesBody s))

end Sys2Proof.Machine
end

