-- ==== Sys2Proof/Machine/Container.lean ====
section
/-! DEFINITION. The Container Framer (45_container.md): FRAME and PARSE. The layout is 30_encoding.md R107 to
R112. -/

namespace Sys2Proof.Machine

/-- The serialized frequency table (30_encoding.md R111, R112): a 5-byte record for each symbol with a non-zero
count, in ascending order from `sym` on. -/
def tableRecords : List Word → (sym : Nat) → List Byte
  | [], _ => []
  | f :: fs, sym =>
    if f = 0 then tableRecords fs (sym + 1)
    else BitVec.ofNat 8 sym :: be32Bytes f ++ tableRecords fs (sym + 1)

/-- The container header (R200): the table's length, the table, the padding byte. -/
def containerHeader (freq : Vector Word 256) (pad : BitVec 3) : List Byte :=
  let table := tableRecords freq.toList 0
  be32Bytes (BitVec.ofNat 32 table.length) ++ table ++ [pad.setWidth 8]

/-- The body of FRAME (R200). -/
def frameBody (s : State) : Result :=
  let miss := missingFlags s packedBit
  if miss ≠ 0 then .raised s .sequence miss.toNat
  else .done { s with outMem := Memory.writeBytes s.outMem 0 (containerHeader s.freq s.pad) }

/-- FRAME as one CORE step (R200, 46_control.md R222). -/
def execFrame (s : State) : Host.Outcome State Fault Refusal := .next (complete (frameBody s))

/-- What PARSE reads out of a container (R202). -/
structure ParsedContainer where
  freq : Vector Word 256
  pad : Byte
  payloadOff : Nat
  payloadLen : Nat
deriving DecidableEq, Repr

/-- The big-endian word at offset `o` (R202, 20_memory.md R85). -/
def be32At (read : Nat → Byte) (o : Nat) : Word := be32 (read o) (read (o + 1)) (read (o + 2)) (read (o + 3))

/-- The record loop of R202: `k` records are left, the next at offset `o`; `prev` is the symbol of the record
before, -1 at the first. -/
def parseRecords (read : Nat → Byte) :
    (k o : Nat) → (prev : Int) → Vector Word 256 → Except (ErrCode × Nat) (Vector Word 256)
  | 0, _, _, f => .ok f
  | k + 1, o, prev, f =>
    let sym := read o
    let count := be32At read (o + 1)
    if (sym.toNat : Int) ≤ prev then .error (.mcTableOrder, o)
    else if count = 0 then .error (.mcTableZero, o)
    else parseRecords read k (o + 5) sym.toNat (f.set sym.toNat count sym.isLt)

/-- The checks of R202 and R203, in their order, on a container of `nb` bytes. -/
def parseContainer (read : Nat → Byte) (nb : Nat) : Except (ErrCode × Nat) ParsedContainer :=
  if nb < 4 then .error (.mcShortHeader, nb)
  else
    let len := (be32At read 0).toNat
    if 5 + len > nb then .error (.mcLength, len)
    else if len % 5 ≠ 0 ∨ len > 1280 then .error (.mcTableFormat, len)
    else
      match parseRecords read (len / 5) 4 (-1) (tabulate 256 fun _ => 0) with
      | .error e => .error e
      | .ok f =>
        let pad := read (4 + len)
        if pad.toNat > 7 then .error (.mcPadding, pad.toNat)
        else if pad.toNat > 0 ∧ nb - 5 - len = 0 then .error (.mcPadEmpty, pad.toNat)
        else .ok { freq := f, pad := pad, payloadOff := 5 + len, payloadLen := nb - 5 - len }

/-- The body of PARSE (R202); a MalformedContainer error clears PARSED (R203, 60_exceptions.md R237). DEDUCED (log
entry 11), unsafe: IN_LEN_RANGE keeps PARSED, as R202 ("On IN_LEN_RANGE nothing changes") and R237 say, while
10_state.md R33 says that a PARSE that ends in an error clears it. -/
def parseBody (s : State) : Result :=
  if s.inLen.toNat > s.inCap then .raised s .inLenRange s.inLen.toNat
  else
    match parseContainer (inByte s) s.inLen.toNat with
    | .error e => .raised { s with parsed := false } e.1 e.2
    | .ok c => .done { s with
        freq := c.freq
        pad := c.pad.setWidth 3
        payloadOff := BitVec.ofNat 32 c.payloadOff
        payloadLen := BitVec.ofNat 32 c.payloadLen
        parsed := true
        treeValid := false
        codesValid := false
        packed := false }

/-- PARSE as one CORE step (R202, 46_control.md R222). -/
def execParse (s : State) : Host.Outcome State Fault Refusal := .next (complete (parseBody s))

end Sys2Proof.Machine
end

