-- ==== Sys2Proof/Machine/Frequency.lean ====
section
/-! DEFINITION. The Frequency Analyzer (40_frequency.md): FREQ_SCAN. -/

namespace Sys2Proof.Machine

/-- The table of how often each byte value occurs (R140, R141). -/
def countBytes (bytes : List Byte) : Vector Word 256 :=
  tabulate 256 fun v => BitVec.ofNat 32 (bytes.count (BitVec.ofNat 8 v))

/-- The body of FREQ_SCAN (R140). -/
def freqScanBody (s : State) : Result :=
  if s.inLen.toNat > s.inCap then .raised s .inLenRange s.inLen.toNat
  else .done { s with freq := countBytes (inBytes s 0 s.inLen.toNat) }.invalidate

/-- FREQ_SCAN as one CORE step (R140, 46_control.md R222). -/
def execFreqScan (s : State) : Host.Outcome State Fault Refusal := .next (complete (freqScanBody s))

end Sys2Proof.Machine
end

