-- ==== Sys2Proof/Machine/TreeBuilder.lean ====
section
/-! DEFINITION. The Tree Builder (41_tree_builder.md): BUILD_TREE. The priority queue is local to the command
(10_state.md R51). -/

namespace Sys2Proof.Machine

/-- The weight check (R150 part 1, R151): the first symbol, in ascending order from `sym` on, at which the running
sum passes 2^32 - 1; `total` is the sum so far. -/
def overflowSymbol : List Word → (sym total : Nat) → Option Nat
  | [], _, _ => none
  | f :: fs, sym, total =>
    if total + f.toNat > 0xFFFFFFFF then some sym else overflowSymbol fs (sym + 1) (total + f.toNat)

/-- The leaves (R150 part 2, R152): one for each symbol with a non-zero count, in ascending order from `sym` on. -/
def leavesOf : List Word → (sym : Nat) → List Node
  | [], _ => []
  | f :: fs, sym =>
    if f = 0 then leavesOf fs (sym + 1) else .leaf (BitVec.ofNat 8 sym) f :: leavesOf fs (sym + 1)

/-- A member of the priority queue: a node index and that node's weight, its key (R153). -/
structure QueueEntry where
  w : Word
  ix : Nat
deriving DecidableEq, Repr

/-- The priority order: the key (w, index), lexicographically (R153). -/
def QueueEntry.before (x y : QueueEntry) : Bool :=
  decide (x.w.toNat < y.w.toNat) || (decide (x.w = y.w) && decide (x.ix < y.ix))

/-- The member with the least key, and the others (R150 part 3). -/
def extractLeast : List QueueEntry → Option (QueueEntry × List QueueEntry)
  | [] => none
  | x :: xs =>
    match extractLeast xs with
    | none => some (x, [])
    | some (y, rest) => if y.before x then some (y, x :: rest) else some (x, y :: rest)

/-- The merges (R150 part 3, R154): while two members are left, the first extracted becomes the left child and the
second the right child of the next node. `fuel` bounds the number of merges. -/
def mergeLoop : (fuel : Nat) → List QueueEntry → List Node → List Node × List QueueEntry
  | 0, q, nodes => (nodes, q)
  | fuel + 1, q, nodes =>
    match extractLeast q with
    | none => (nodes, q)
    | some (a, q1) =>
      match extractLeast q1 with
      | none => (nodes, q)
      | some (b, q2) =>
        mergeLoop fuel (⟨a.w + b.w, nodes.length⟩ :: q2)
          (nodes ++ [.internal (a.w + b.w) (BitVec.ofNat 9 a.ix) (BitVec.ofNat 9 b.ix)])

/-- What BUILD_TREE builds: the leaves' number K, the nodes from index 0 on, and the root (R150 part 4). -/
structure BuiltTree where
  nsym : Nat
  nodes : List Node
  root : NodeIx
deriving DecidableEq, Repr

/-- The tree of a frequency table (R150 parts 2 to 4, R155 to R157); K leaves need K - 1 merges (R155). -/
def buildTree (freq : Vector Word 256) : BuiltTree :=
  let leaves := leavesOf freq.toList 0
  let queue := leaves.zipIdx.map fun x => ⟨nodeWeight x.1, x.2⟩
  let merged := mergeLoop leaves.length queue leaves
  { nsym := leaves.length
    nodes := merged.1
    root := match merged.2 with
      | [] => NIL
      | x :: _ => BitVec.ofNat 9 x.ix }

/-- The node store with the built nodes written from entry 0 on; the other entries keep what they held. -/
def storeNodes (old : Vector Node 511) (new : List Node) : Vector Node 511 :=
  ⟨⟨(new ++ old.toList.drop new.length).take 511⟩, by simp; omega⟩

/-- The body of BUILD_TREE (R150). -/
def buildTreeBody (s : State) : Result :=
  match overflowSymbol s.freq.toList 0 0 with
  | some sym => .raised s .weightOverflow sym
  | none =>
    let tree := buildTree s.freq
    .done { s with
      nodes := storeNodes s.nodes tree.nodes
      nsym := BitVec.ofNat 9 tree.nsym
      nnodes := BitVec.ofNat 9 tree.nodes.length
      root := tree.root
      treeValid := true
      codesValid := false
      packed := false }

/-- BUILD_TREE as one CORE step (R150, 46_control.md R222). -/
def execBuildTree (s : State) : Host.Outcome State Fault Refusal := .next (complete (buildTreeBody s))

end Sys2Proof.Machine
end

