-- ==== Sys2Proof/Machine/Control.lean ====
section
/-! DEFINITION. The command sequencer (46_control.md): CLEAR, the composites COMPRESS and DECOMPRESS, and the
illegal command words. -/

namespace Sys2Proof.Machine

/-- The body of CLEAR (R223). DEDUCED (log entry 13), unsafe: OVERRUN stays as it is, as R223, 10_state.md R29 and
70_reset_and_hazards.md R274 say, while 70_reset_and_hazards.md R264 says that every flag of STATUS is 0 after
CLEAR. -/
def clearBody (s : State) : Result :=
  .done { s with
    freq := tabulate 256 fun _ => 0
    treeValid := false
    codesValid := false
    packed := false
    parsed := false
    outLen := 0
    pad := 0
    nsym := 0
    nnodes := 0
    root := NIL
    payloadOff := 0
    payloadLen := 0
    bitlen := 0 }

/-- CLEAR as one CORE step (R223, R222). -/
def execClear (s : State) : Host.Outcome State Fault Refusal := .next (complete (clearBody s))

/-- The body of COMPRESS (R224, R227). -/
def compressBody (s : State) : Result :=
  runSteps [freqScanBody, buildTreeBody, genCodesBody, packBody, frameBody] s

/-- COMPRESS as one CORE step (R224, R222). -/
def execCompress (s : State) : Host.Outcome State Fault Refusal := .next (complete (compressBody s))

/-- The body of DECOMPRESS (R225, R227). -/
def decompressBody (s : State) : Result := runSteps [parseBody, buildTreeBody, unpackBody] s

/-- DECOMPRESS as one CORE step (R225, R222). -/
def execDecompress (s : State) : Host.Outcome State Fault Refusal := .next (complete (decompressBody s))

/-- The body of an illegal command (R226): `raise ILLEGAL_CMD(CMD)`, the whole command word as CMD holds it. -/
def illegalBody (s : State) : Result := .raised s .illegalCmd s.cmd.toNat

/-- The reserved OPCODE 0x00 as one CORE step (R226, R222). -/
def execIllegalOpcode00 (s : State) : Host.Outcome State Fault Refusal := .next (complete (illegalBody s))

/-- A reserved OPCODE 0x0B to 0xFF as one CORE step (R226, R222); CMD holds the opcode. -/
def execIllegalOpcode0BFF (_opcode : Byte) (s : State) : Host.Outcome State Fault Refusal :=
  .next (complete (illegalBody s))

/-- A word with RSVD not 0 as one CORE step (R226, R222); CMD holds both fields. -/
def execIllegalRsvd (_rsvd : BitVec 24) (_opcode : Byte) (s : State) : Host.Outcome State Fault Refusal :=
  .next (complete (illegalBody s))

end Sys2Proof.Machine
end

