-- ==== Sys2Proof/Machine/Dispatch.lean ====
section
/-! DEFINITION. The CORE step of a decoded command (46_control.md rule R222): one arm per constructor of Instr. -/

namespace Sys2Proof.Machine

def exec (i : Instr) (s : State) : Host.Outcome State Fault Refusal :=
  match i with
  | .clear => Sys2Proof.Machine.execClear s
  | .freqScan => Sys2Proof.Machine.execFreqScan s
  | .buildTree => Sys2Proof.Machine.execBuildTree s
  | .genCodes => Sys2Proof.Machine.execGenCodes s
  | .pack => Sys2Proof.Machine.execPack s
  | .frame => Sys2Proof.Machine.execFrame s
  | .parse => Sys2Proof.Machine.execParse s
  | .unpack => Sys2Proof.Machine.execUnpack s
  | .compress => Sys2Proof.Machine.execCompress s
  | .decompress => Sys2Proof.Machine.execDecompress s
  | .illegalOpcode00 => Sys2Proof.Machine.execIllegalOpcode00 s
  | .illegalOpcode0BFF opcode => Sys2Proof.Machine.execIllegalOpcode0BFF opcode s
  | .illegalRsvd rsvd opcode => Sys2Proof.Machine.execIllegalRsvd rsvd opcode s

end Sys2Proof.Machine
end

