-- ==== Sys2Proof/Machine/Bus.lean ====
section
/-! DEFINITION. The host bus (20_memory.md R73 to R84): the address map, the register map (10_state.md R23), what
each register reads as and what a write to it does, and the two transactions. -/

namespace Sys2Proof.Machine

/-- The host-visible registers (10_state.md R23). -/
inductive Reg where
  | id
  | cmd
  | status
  | errCode
  | errInfo
  | inLen
  | outLen
  | pad
  | nsym
  | nnodes
  | root
  | payloadOff
  | payloadLen
  | bitlenLo
  | bitlenHi
  | irqEn
  | irqStatus
  | inCap
  | outCap
  | freq (sym : Byte)
  | nodeW (i : NodeIx)
  | nodeL (i : NodeIx)
  | codeLen (sym : Byte)
  | codeBits (sym : Byte) (w : BitVec 3)
  | reserved
deriving DecidableEq, Repr

/-- The register at a 4-byte aligned offset of the register region (10_state.md R23). -/
def regAt (off : Nat) : Reg :=
  if off < 0x4C then
    match off with
    | 0x000 => .id
    | 0x004 => .cmd
    | 0x008 => .status
    | 0x00C => .errCode
    | 0x010 => .errInfo
    | 0x014 => .inLen
    | 0x018 => .outLen
    | 0x01C => .pad
    | 0x020 => .nsym
    | 0x024 => .nnodes
    | 0x028 => .root
    | 0x02C => .payloadOff
    | 0x030 => .payloadLen
    | 0x034 => .bitlenLo
    | 0x038 => .bitlenHi
    | 0x03C => .irqEn
    | 0x040 => .irqStatus
    | 0x044 => .inCap
    | 0x048 => .outCap
    | _ => .reserved
  else if off < 0x400 then .reserved
  else if off < 0x800 then .freq (BitVec.ofNat 8 ((off - 0x400) / 4))
  else if off < 0x1000 then .reserved
  else if off < 0x1FF8 then
    (if off % 8 = 0 then .nodeW (BitVec.ofNat 9 ((off - 0x1000) / 8))
      else .nodeL (BitVec.ofNat 9 ((off - 0x1000) / 8)))
  else if off < 0x2000 then .reserved
  else if off < 0x2400 then .codeLen (BitVec.ofNat 8 ((off - 0x2000) / 4))
  else if off < 0x4000 then .reserved
  else if off < 0x6000 then
    .codeBits (BitVec.ofNat 8 ((off - 0x4000) / 32)) (BitVec.ofNat 3 ((off - 0x4000) / 4 % 8))
  else .reserved

/-- What a bus address reaches (20_memory.md R73). -/
inductive Target where
  | register (off : Nat)
  | inWindow (a : Nat)
  | outWindow (a : Nat)
  | unmapped
deriving DecidableEq, Repr

/-- The address map of a HUFFCORE with these capacities (20_memory.md R73). -/
def targetOf (inCap outCap : Nat) (addr : Word) : Target :=
  let a := addr.toNat
  if a < 0x10000 then .register a
  else if a < 0x40000000 then .unmapped
  else if a < 0x80000000 then
    (if a - 0x40000000 < inCap then .inWindow (a - 0x40000000) else .unmapped)
  else if a < 0xC0000000 then
    (if a - 0x80000000 < outCap then .outWindow (a - 0x80000000) else .unmapped)
  else .unmapped

/-- NODE_L (30_encoding.md R117): kind, symbol and children of a node. -/
def nodeLWord : Node → Word
  | .leaf sym _ => (1#1 ++ 0#5 ++ sym ++ NIL ++ NIL : BitVec 32)
  | .internal _ left right => (0#1 ++ 0#5 ++ 0#8 ++ left ++ right : BitVec 32)

/-- CODE_BITS[s][w] (30_encoding.md R120): bits 32w to 32w + 31 of a code, the first in bit 31, 0 past its end. -/
def codeBitsWord (code : BitString) (w : Nat) : Word :=
  BitVec.ofNat 32 (bitsToNat ((List.range 32).map fun t => code.getD (32 * w + t) false))

/-- The value a register holds (10_state.md R24 to R50). DESIGN CHOICE (log entry 8): of a code of more than 255 bits,
which 00_scope.md R7 excludes and no run makes visible, CODE_LEN shows the low 8 bits of the length and CODE_BITS the
first 256 bits. -/
def regValue (s : State) : Reg → Word
  | .id => 0x48554631#32
  | .cmd => s.cmd
  | .status => statusWord s
  | .errCode => (errByte s.errCode).setWidth 32
  | .errInfo => s.errInfo
  | .inLen => s.inLen
  | .outLen => s.outLen
  | .pad => s.pad.setWidth 32
  | .nsym => s.nsym.setWidth 32
  | .nnodes => s.nnodes.setWidth 32
  | .root => s.root.setWidth 32
  | .payloadOff => s.payloadOff
  | .payloadLen => s.payloadLen
  | .bitlenLo => s.bitlen.extractLsb' 0 32
  | .bitlenHi => s.bitlen.extractLsb' 32 32
  | .irqEn => flagBit s.irqEn 1#32
  | .irqStatus => flagBit s.irqDone 1#32
  | .inCap => BitVec.ofNat 32 s.inCap
  | .outCap => BitVec.ofNat 32 s.outCap
  | .freq sym => freqOf s sym
  | .nodeW i => if s.treeValid && decide (i < s.nnodes) then nodeWeight (nodeAt s.nodes i) else 0
  | .nodeL i => if s.treeValid && decide (i < s.nnodes) then nodeLWord (nodeAt s.nodes i) else 0
  | .codeLen sym =>
    if s.codesValid then (BitVec.ofNat 8 (codeOf s.codes sym).length).setWidth 32 else 0
  | .codeBits sym w => if s.codesValid then codeBitsWord (codeOf s.codes sym) w.toNat else 0
  | .reserved => 0

/-- The registers a host reads with their true values while BUSY (10_state.md R27, R55); a reserved offset reads 0
then too (R53; DEDUCED, log entry 7). -/
def readableWhileBusy : Reg → Bool
  | .id => true
  | .cmd => true
  | .status => true
  | .irqEn => true
  | .irqStatus => true
  | .inCap => true
  | .outCap => true
  | .reserved => true
  | .errCode => false
  | .errInfo => false
  | .inLen => false
  | .outLen => false
  | .pad => false
  | .nsym => false
  | .nnodes => false
  | .root => false
  | .payloadOff => false
  | .payloadLen => false
  | .bitlenLo => false
  | .bitlenHi => false
  | .freq _ => false
  | .nodeW _ => false
  | .nodeL _ => false
  | .codeLen _ => false
  | .codeBits _ _ => false

/-- The state after one draw: only the model's counter of draws moves (10_state.md R55). -/
def State.drawn (s : State) : State := { s with fresh := s.fresh + 1 }

/-- A register read (20_memory.md R79): the register's value, or a fresh draw while BUSY (10_state.md R55). -/
def readReg (s : State) (r : Reg) : State × Word :=
  if s.busy && !readableWhileBusy r then (s.drawn, Config.freeWord s.fresh) else (s, regValue s r)

/-- A window byte read of the byte `v` (20_memory.md R82), or a fresh draw while BUSY (10_state.md R55). -/
def readWindow (s : State) (v : Byte) : State × Word :=
  if s.busy then (s.drawn, (Config.freeByte s.fresh).setWidth 32) else (s, v.setWidth 32)

/-- A write dropped because CORE is BUSY (20_memory.md R80). -/
def State.dropWrite (s : State) : State := { s with overrun := true }

/-- A register write (10_state.md R25, R36, R43, R45, R53, R54; 20_memory.md R80, R84; 46_control.md R220). -/
def writeReg (s : State) (r : Reg) (v : Word) : State :=
  match r with
  | .cmd => if s.busy then s.dropWrite else s.accept v
  | .inLen => if s.busy then s.dropWrite else { s with inLen := v }
  | .freq sym =>
    if s.busy then s.dropWrite
    else { s with freq := s.freq.set sym.toNat v sym.isLt }.invalidate
  | .irqEn => { s with irqEn := v.getLsbD 0 }
  | .irqStatus => if v.getLsbD 0 then { s with irqDone := false } else s
  | .id => s
  | .status => s
  | .errCode => s
  | .errInfo => s
  | .outLen => s
  | .pad => s
  | .nsym => s
  | .nnodes => s
  | .root => s
  | .payloadOff => s
  | .payloadLen => s
  | .bitlenLo => s
  | .bitlenHi => s
  | .inCap => s
  | .outCap => s
  | .nodeW _ => s
  | .nodeL _ => s
  | .codeLen _ => s
  | .codeBits _ _ => s
  | .reserved => s

/-- A write of byte `v` to IN_MEM offset `a` (20_memory.md R80, R81). -/
def writeIn (s : State) (a : Nat) (v : Byte) : State :=
  if s.busy then s.dropWrite else { s with inMem := Memory.set s.inMem a v, parsed := false }

/-- `Read(addr, size)` (20_memory.md R75 to R79, R82, R83): the state after it and what the bus gives back. -/
def busRead (s : State) (addr : Word) (size : Nat) : State × BusReply :=
  match targetOf s.inCap s.outCap addr with
  | .register off =>
    if size = 4 ∧ off % 4 = 0 then
      ((readReg s (regAt off)).1, .read (readReg s (regAt off)).2 .okay)
    else (s, .read 0 .slverr)
  | .inWindow a =>
    if size = 1 then
      ((readWindow s (inByte s a)).1, .read (readWindow s (inByte s a)).2 .okay)
    else (s, .read 0 .slverr)
  | .outWindow a =>
    if size = 1 then
      ((readWindow s (outByte s a)).1, .read (readWindow s (outByte s a)).2 .okay)
    else (s, .read 0 .slverr)
  | .unmapped => (s, .read 0 .slverr)

/-- `Write(addr, size, data)` (20_memory.md R75 to R81, R84): the state after it and what the bus gives back. -/
def busWrite (s : State) (addr : Word) (size : Nat) (data : Word) : State × BusReply :=
  match targetOf s.inCap s.outCap addr with
  | .register off =>
    if size = 4 ∧ off % 4 = 0 then (writeReg s (regAt off) data, .write .okay) else (s, .write .slverr)
  | .inWindow a =>
    if size = 1 then (writeIn s a (data.setWidth 8), .write .okay) else (s, .write .slverr)
  | .outWindow _ => (s, .write .slverr)
  | .unmapped => (s, .write .slverr)

end Sys2Proof.Machine
end

