-- ==== Sys2Proof/Machine/Script.lean ====
section
/-! DEFINITION. The host's script and who moves next (00_scope.md R5; 20_memory.md R91; 30_encoding.md R121, R122;
70_reset_and_hazards.md R260, R261, R271, R275). Every interleaving of HOST and CORE is some script, so a statement
about every state is a statement about every interleaving (log entry 5). -/

namespace Sys2Proof.Machine

/-- The bus address of STATUS (10_state.md R23). -/
def statusAddr : Word := 0x008#32

/-- The bus address of OUT_LEN (10_state.md R23). -/
def outLenAddr : Word := 0x018#32

/-- The bus address of byte `a` of the IN window (20_memory.md R73). -/
def inAddr (a : Nat) : Word := BitVec.ofNat 32 (0x40000000 + a)

/-- The bus address of byte `a` of the OUT window (20_memory.md R73). -/
def outAddr (a : Nat) : Word := BitVec.ofNat 32 (0x80000000 + a)

/-- `cmd M` for the command word `w` (30_encoding.md R122). -/
def cmdMoves (w : Word) : List HostMove := [.write 0x004#32 4 w, .wait]

/-- `load b0 b1 ...` (30_encoding.md R122). -/
def loadMoves (bytes : List Byte) : List HostMove :=
  (bytes.zipIdx.map fun b => .write (inAddr b.2) 1 (b.1.setWidth 32))
    ++ [.write 0x014#32 4 (BitVec.ofNat 32 bytes.length)]

/-- The reads `dump` makes once OUT_LEN has read as `n` (30_encoding.md R122). -/
def dumpMoves (n : Nat) : List HostMove := (List.range n).map fun a => .read (outAddr a) 1

/-- The data of a reply, 0 for a write. -/
def replyData : BusReply → Word
  | .read data _ => data
  | .write _ => 0

/-- The state with a reply handed to the host and the script moved on. -/
def State.answer (s : State) (reply : BusReply) (rest : List HostMove) : State :=
  { s with replies := reply :: s.replies, script := rest }

/-- The state a hardware reset leaves (70_reset_and_hazards.md R260, R261): the capacities stay, everything else is
as 10_state.md R57 says, the pending command with it; the host goes on with its script. -/
def State.hardReset (s : State) (rest : List HostMove) : State :=
  { State.resetWith s.inCap s.outCap s.fresh with script := rest, replies := s.replies }

/-- One HOST step: the move `m`, with `rest` of the script behind it. `wait` and `core` stand here with CORE idle
(see `turnOf`): the poll then reads BUSY = 0 and the script goes on, and CORE has no step to take. -/
def hostStep (s : State) (m : HostMove) (rest : List HostMove) : State :=
  match m with
  | .read addr size => (busRead s addr size).1.answer (busRead s addr size).2 rest
  | .write addr size data => (busWrite s addr size data).1.answer (busWrite s addr size data).2 rest
  | .wait => (busRead s statusAddr 4).1.answer (busRead s statusAddr 4).2 rest
  | .dump =>
    (busRead s outLenAddr 4).1.answer (busRead s outLenAddr 4).2
      (dumpMoves (replyData (busRead s outLenAddr 4).2).toNat ++ rest)
  | .core => { s with script := rest }
  | .reset => s.hardReset rest

/-- Whose step comes next. -/
inductive Turn where
  /-- CORE runs the pending command; `rest` is the script after it. -/
  | core (rest : List HostMove)
  /-- HOST makes the move `m`; `rest` is the script after it. -/
  | host (m : HostMove) (rest : List HostMove)
  /-- Nobody: the script is at its end and CORE is IDLE (70_reset_and_hazards.md R275). -/
  | idle
deriving DecidableEq, Repr

/-- Who moves next. CORE's step is enabled exactly when BUSY (46_control.md R222); it is taken where the script says
so, where the host waits for it, and where the host has no move left (weak fairness, 70_reset_and_hazards.md
R271). -/
def turnOf (s : State) : Turn :=
  match s.script with
  | [] => if s.busy then .core [] else .idle
  | .core :: rest => if s.busy then .core rest else .host .core rest
  | .wait :: rest => if s.busy then .core (.wait :: rest) else .host .wait rest
  | m :: rest => .host m rest

end Sys2Proof.Machine
end

