-- ==== Sys2Proof/Machine/Step.lean ====
section
/-! DEFINITION. One step of HUFFCORE and its host (00_scope.md R5): a HOST step, or the CORE step of the command word
that CMD holds (46_control.md R222), or, with nothing pending, waiting (60_exceptions.md R254). -/

namespace Sys2Proof.Machine

/-- One step. -/
def step (s : State) : Host.Outcome State Fault Refusal :=
  match turnOf s with
  | .core rest => exec (decode s.cmd) { s with script := rest }
  | .host m rest => .next (hostStep s m rest)
  | .idle => .next s

/-- `s` with the command word `w` issued (46_control.md R220) and the next step given to CORE, so that `step` decodes
and runs it (log entry 10); bits of `w` from `nbits` on count as 0. -/
def State.withFetchWord (s : State) (nbits w : Nat) : State :=
  { s.accept (BitVec.ofNat 32 (w % 2 ^ nbits)) with script := .core :: s.script }

end Sys2Proof.Machine
end

