-- ==== Sys2Proof/Safety.lean ====
section
/-! DEFINITION. What counts as a legal state and as a good end of a command, in the terms the statements use: how a
command ends, what it leaves alone, what the table, the tree and the codes of a frequency table are, and the
invariants of 10_state.md rule R56. -/

namespace Sys2Proof.Machine

/-- The capacities are in their legal range (00_scope.md R6). -/
abbrev State.capsLegal (s : State) : Prop :=
  5 ≤ s.inCap ∧ s.inCap ≤ 2 ^ 30 ∧ 5 ≤ s.outCap ∧ s.outCap ≤ 2 ^ 30

/-- Both memories are in canonical form. -/
abbrev State.memoryWf (s : State) : Prop := Memory.wf s.inMem ∧ Memory.wf s.outMem

/-- IN_MEM lists addresses below IN_CAP only (20_memory.md R71). -/
abbrev State.inMemFits (s : State) : Prop := ∀ c ∈ s.inMem, c.1 < s.inCap

/-- OUT_MEM lists addresses below OUT_CAP only (20_memory.md R72). -/
abbrev State.outMemFits (s : State) : Prop := ∀ c ∈ s.outMem, c.1 < s.outCap

/-- The input bytes, IN_MEM[0..IN_LEN-1] (10_state.md R36). -/
def State.input (s : State) : List Byte := inBytes s 0 s.inLen.toNat

/-- The decoded word is one of the three illegal rows (30_encoding.md R105). -/
def isIllegal : Instr → Bool
  | .clear => false
  | .freqScan => false
  | .buildTree => false
  | .genCodes => false
  | .pack => false
  | .frame => false
  | .parse => false
  | .unpack => false
  | .compress => false
  | .decompress => false
  | .illegalOpcode00 => true
  | .illegalOpcode0BFF _ => true
  | .illegalRsvd _ _ => true

/-! Bus transactions. -/

/-- An address nothing answers at (20_memory.md R73, R78 item 1). -/
abbrev isUnmapped (s : State) (addr : Word) : Prop :=
  (0x10000 ≤ addr.toNat ∧ addr.toNat < 0x40000000) ∨ 0xC0000000 ≤ addr.toNat ∨
    (0x40000000 ≤ addr.toNat ∧ addr.toNat < 0x80000000 ∧ s.inCap ≤ addr.toNat - 0x40000000) ∨
    (0x80000000 ≤ addr.toNat ∧ addr.toNat < 0xC0000000 ∧ s.outCap ≤ addr.toNat - 0x80000000)

/-- A transaction 20_memory.md R78 lists in items 1 to 3. -/
abbrev isBadAccess (s : State) (addr : Word) (size : Nat) : Prop :=
  isUnmapped s addr ∨ (addr.toNat < 0x10000 ∧ (size ≠ 4 ∨ addr.toNat % 4 ≠ 0)) ∨
    (0x10000 ≤ addr.toNat ∧ size ≠ 1)

/-- A write to CMD, IN_LEN, FREQ or the IN window, which BUSY drops (20_memory.md R80). -/
def isDroppedWhileBusy (s : State) (addr : Word) (size : Nat) : Prop :=
  (size = 4 ∧ (addr = 0x004#32 ∨ addr = 0x014#32 ∨
    (0x400 ≤ addr.toNat ∧ addr.toNat < 0x800 ∧ addr.toNat % 4 = 0))) ∨
  (size = 1 ∧ 0x40000000 ≤ addr.toNat ∧ addr.toNat < 0x80000000 ∧ addr.toNat - 0x40000000 < s.inCap)

/-! How a command ends. -/

/-- What no command changes: CMD, OVERRUN, IN_LEN, IRQ_EN, the capacities and IN_MEM, and the model's own script and
replies. -/
def KeepsHostSide (s t : State) : Prop :=
  t.cmd = s.cmd ∧ t.overrun = s.overrun ∧ t.inLen = s.inLen ∧ t.irqEn = s.irqEn ∧ t.inCap = s.inCap ∧
    t.outCap = s.outCap ∧ t.inMem = s.inMem ∧ t.inSeed = s.inSeed ∧ t.script = s.script ∧ t.replies = s.replies

/-- The command has completed (46_control.md R222): CORE is IDLE, DONE is set, the host's side is as it was. -/
def Completed (s t : State) : Prop := t.busy = false ∧ t.irqDone = true ∧ KeepsHostSide s t

/-- The command has completed without an error (46_control.md R222). -/
def Succeeded (s t : State) : Prop := Completed s t ∧ t.err = false ∧ t.errCode = .none ∧ t.errInfo = 0

/-- The command has completed with the error `e` and the information word `info` (60_exceptions.md R236). -/
def Failed (s t : State) (e : ErrCode) (info : Word) : Prop :=
  Completed s t ∧ t.err = true ∧ t.errCode = e ∧ t.errInfo = info

/-! What a command leaves alone. -/

/-- The four validity flags are as they were. -/
def KeepsFlags (s t : State) : Prop :=
  t.treeValid = s.treeValid ∧ t.codesValid = s.codesValid ∧ t.packed = s.packed ∧ t.parsed = s.parsed

/-- All four validity flags are 0. -/
def NoFlags (t : State) : Prop :=
  t.treeValid = false ∧ t.codesValid = false ∧ t.packed = false ∧ t.parsed = false

/-- The node store and NSYM, NNODES and ROOT are as they were. -/
def KeepsTree (s t : State) : Prop :=
  t.nodes = s.nodes ∧ t.nsym = s.nsym ∧ t.nnodes = s.nnodes ∧ t.root = s.root

/-- PAYLOAD_OFF and PAYLOAD_LEN are as they were. -/
def KeepsPayloadRegs (s t : State) : Prop := t.payloadOff = s.payloadOff ∧ t.payloadLen = s.payloadLen

/-- Every byte of OUT_MEM outside `[lo, hi)` reads as it did. -/
def KeepsOutOutside (s t : State) (lo hi : Nat) : Prop := ∀ a, a < lo ∨ hi ≤ a → outByte t a = outByte s a

/-- Every byte of OUT_MEM reads as it did. -/
def KeepsOut (s t : State) : Prop := ∀ a, outByte t a = outByte s a

/-- PAD, OUT_LEN, BITLEN and every byte of OUT_MEM are as they were. -/
def KeepsOutput (s t : State) : Prop :=
  t.pad = s.pad ∧ t.outLen = s.outLen ∧ t.bitlen = s.bitlen ∧ KeepsOut s t

/-- Every flag but PARSED, every table and store, every result register and every byte of OUT_MEM is as it was
(60_exceptions.md R237). PARSED is named apart, and what no command changes is KeepsHostSide. -/
def KeepsResults (s t : State) : Prop :=
  t.treeValid = s.treeValid ∧ t.codesValid = s.codesValid ∧ t.packed = s.packed ∧ t.freq = s.freq ∧
    KeepsTree s t ∧ t.codes = s.codes ∧ KeepsPayloadRegs s t ∧ KeepsOutput s t

/-- The effects of a data-phase error (60_exceptions.md R238): OUT_LEN and PACKED 0, every byte of OUT_MEM a fresh
draw, the other flags, tables, stores and result registers as they were. What no command changes is KeepsHostSide. -/
def DataPhaseFailed (s t : State) : Prop :=
  t.outLen = 0 ∧ t.packed = false ∧ (∀ a, outByte t a = Config.freeOutByte s.fresh a) ∧
    t.pad = s.pad ∧ t.bitlen = s.bitlen ∧ t.parsed = s.parsed ∧ t.treeValid = s.treeValid ∧
    t.codesValid = s.codesValid ∧ t.freq = s.freq ∧ KeepsTree s t ∧ t.codes = s.codes ∧ KeepsPayloadRegs s t

/-- The command of CMD, accepted again after it ended in the error of `t`, ends in the same error with the same
information word (60_exceptions.md R241). -/
def FailsAgain (i : Instr) (s t : State) : Prop :=
  ∃ u, exec i (t.accept s.cmd) = .next u ∧ u.err = true ∧ u.errCode = t.errCode ∧ u.errInfo = t.errInfo

/-! Tables, trees and codes. -/

/-- The symbols of a frequency table, ascending (10_state.md R44, 41_tree_builder.md R152). -/
def tableSymbols (freq : Vector Word 256) : List Byte :=
  ((List.range 256).map (BitVec.ofNat 8)).filter fun v => decide (freq[v.toNat]'v.isLt ≠ 0)

/-- The sum of the counts of the symbols below `n` (41_tree_builder.md R150 part 1). -/
def freqSumBelow (freq : Vector Word 256) (n : Nat) : Nat := ((freq.toList.take n).map BitVec.toNat).sum

/-- The sum of all counts (41_tree_builder.md R151). -/
def freqTotal (freq : Vector Word 256) : Nat := freqSumBelow freq 256

/-- Node `i` of the store (10_state.md R46). -/
def nodeNo (s : State) (i : Nat) : Node := nodeAt s.nodes (BitVec.ofNat 9 i)

/-- `i` is one of the children of a node. -/
def hasChild : Node → Nat → Bool
  | .leaf _ _, _ => false
  | .internal _ left right, i => left.toNat == i || right.toNat == i

/-- At the merge that creates node `n`, node `i` is in the priority queue: it exists and no node made before `n` has
it as a child (41_tree_builder.md R150 part 3). -/
def inQueueAt (s : State) (n i : Nat) : Prop := i < n ∧ ∀ m < n, hasChild (nodeNo s m) i = false

/-- Node `i` has a smaller key than node `j` (41_tree_builder.md R153). -/
def keyLess (s : State) (i j : Nat) : Prop :=
  (nodeWeight (nodeNo s i)).toNat < (nodeWeight (nodeNo s j)).toNat ∨
    (nodeWeight (nodeNo s i) = nodeWeight (nodeNo s j) ∧ i < j)

/-- The child a bit chooses: 0 the left, 1 the right (42_code_table.md R171). -/
def childOf : Node → Bool → NodeIx
  | .leaf _ _, _ => NIL
  | .internal _ left right, bit => if bit then right else left

/-- The node a bit string leads to from node `i` (42_code_table.md R171). -/
def descend (nodes : Vector Node 511) (i : NodeIx) (path : BitString) : NodeIx :=
  path.foldl (fun j bit => childOf (nodeAt nodes j) bit) i

/-- The store holds the tree of the present FREQ (10_state.md R56 item 3). -/
abbrev State.treeFromFreq (s : State) : Prop :=
  freqTotal s.freq ≤ 0xFFFFFFFF ∧
    s.nsym = BitVec.ofNat 9 (buildTree s.freq).nsym ∧
    s.nnodes = BitVec.ofNat 9 (buildTree s.freq).nodes.length ∧
    s.root = (buildTree s.freq).root ∧
    s.nodes.toList.take (buildTree s.freq).nodes.length = (buildTree s.freq).nodes

/-- The codes of a frequency table: those of its tree, written over the store `old`, whose other entries no code
depends on. -/
def codesOfFreq (old : Vector Node 511) (freq : Vector Word 256) : Vector BitString 256 :=
  codesOf (storeNodes old (buildTree freq).nodes) (buildTree freq).root

/-- The size of the container COMPRESS makes of the input (43_bit_packer.md R180, R183). -/
def compressedSize (s : State) : Nat :=
  headerLen (tableSymbols (countBytes s.input)).length
    + ((bitStream (codesOfFreq s.nodes (countBytes s.input)) s.input).length + 7) / 8

/-- The symbol of record `k` of a container's table in IN_MEM (30_encoding.md R111). -/
def recordSymbol (s : State) (k : Nat) : Byte := inByte s (4 + 5 * k)

/-- The count of record `k` of a container's table in IN_MEM (30_encoding.md R111). -/
def recordCount (s : State) (k : Nat) : Word :=
  be32 (inByte s (5 + 5 * k)) (inByte s (6 + 5 * k)) (inByte s (7 + 5 * k)) (inByte s (8 + 5 * k))

/-- Record `k` continues a canonical table: its symbol is above the one before it, its count is not 0
(30_encoding.md R112). -/
def recordGood (s : State) (k : Nat) : Prop :=
  (∀ j, k = j + 1 → (recordSymbol s j).toNat < (recordSymbol s k).toNat) ∧ recordCount s k ≠ 0

/-- The length prefix of the container in IN_MEM (30_encoding.md R109). -/
def lengthPrefix (s : State) : Word := be32 (inByte s 0) (inByte s 1) (inByte s 2) (inByte s 3)

/-- The length prefix passes causes 1 to 3 of 45_container.md R203. -/
abbrev State.prefixGood (s : State) : Prop :=
  s.inLen.toNat ≤ s.inCap ∧ 4 ≤ s.inLen.toNat ∧ 5 + (lengthPrefix s).toNat ≤ s.inLen.toNat ∧
    (lengthPrefix s).toNat % 5 = 0 ∧ (lengthPrefix s).toNat ≤ 1280

/-- The CORE steps of the commands run one after the other, with no acceptance between them, up to and with the first
that ends in an error, after which OUT_LEN is 0 (46_control.md R227, 60_exceptions.md R239). -/
def runChain : List Instr → State → Option State
  | [], s => some s
  | i :: rest, s =>
    match exec i s with
    | .next t => if t.err then some { t with outLen := 0 } else runChain rest t
    | .fault _ => none
    | .refused _ => none

/-- The error codes a command can end with (60_exceptions.md R234). -/
def allowedErrors : Instr → List ErrCode
  | .clear => []
  | .freqScan => [.inLenRange]
  | .buildTree => [.weightOverflow]
  | .genCodes => [.sequence]
  | .pack => [.sequence, .inLenRange, .symbolAbsent, .outOverflow]
  | .frame => [.sequence]
  | .parse => [.inLenRange, .mcShortHeader, .mcLength, .mcTableFormat, .mcTableOrder, .mcTableZero, .mcPadding,
      .mcPadEmpty]
  | .unpack => [.sequence, .desync, .outOverflow]
  | .compress => [.inLenRange, .outOverflow]
  | .decompress => [.inLenRange, .mcShortHeader, .mcLength, .mcTableFormat, .mcTableOrder, .mcTableZero,
      .mcPadding, .mcPadEmpty, .weightOverflow, .desync, .outOverflow]
  | .illegalOpcode00 => [.illegalCmd]
  | .illegalOpcode0BFF _ => [.illegalCmd]
  | .illegalRsvd _ _ => [.illegalCmd]

/-- The STATUS bits a command needs (46_control.md R221). -/
def neededFlags : Instr → Word
  | .clear => 0
  | .freqScan => 0
  | .buildTree => 0
  | .genCodes => 0x10#32
  | .pack => 0x20#32
  | .frame => 0x40#32
  | .parse => 0
  | .unpack => 0x90#32
  | .compress => 0
  | .decompress => 0
  | .illegalOpcode00 => 0
  | .illegalOpcode0BFF _ => 0
  | .illegalRsvd _ _ => 0

/-- The invariants of 10_state.md rule R56, items 1 and 3 to 5, and item 2 but for OUT_LEN (log entry 9); OUT_LEN stays
within OUT_CAP (R37), and while PACKED is 1 the header FRAME will write does too (45_container.md R200). -/
structure State.Inv (s : State) : Prop where
  outLenFits : s.outLen.toNat ≤ s.outCap
  errShown : s.err = true ↔ s.errCode ≠ .none
  codesNeedTree : s.codesValid = true → s.treeValid = true
  codesOfTree : s.codesValid = true → s.codes = codesOf s.nodes s.root
  packedNeedsCodes : s.packed = true → s.codesValid = true
  packedHeaderFits : s.packed = true → headerLen s.nsym.toNat ≤ s.outCap
  packedPad : s.packed = true → s.pad.toNat = padCount s.bitlen.toNat
  treeOfFreq : s.treeValid = true → s.treeFromFreq
  parsedNotPacked : s.parsed = true → s.packed = false
  parsedFromInput : s.parsed = true →
    ∃ nb ≤ s.inCap, ∃ c, parseContainer (inByte s) nb = .ok c ∧ s.freq = c.freq ∧ s.pad = c.pad.setWidth 3 ∧
      s.payloadOff = BitVec.ofNat 32 c.payloadOff ∧ s.payloadLen = BitVec.ofNat 32 c.payloadLen

/-- A run may go on: a step answers a next state (60_exceptions.md R254). -/
def Goes (o : Host.Outcome State Fault Refusal) : Prop := ∃ t, o = .next t

end Sys2Proof.Machine
end

