-- ==== Sys2Proof/Certificates/Slice0/Obligations.lean ====
section
/-! DEFINITION. The statements of this model for the provers, from the numbered rules of spec/. Every statement is
about all states unless it says otherwise; a premise that only rules out states no run reaches is an invariant that
is a statement of its own. -/

open Sys2Proof Sys2Proof.Machine

/-! Encoding. -/

/-- The opcode map of 30_encoding.md rule R104 on its ten command words, on the ends of its reserved range and on a
word whose reserved field is not 0. -/
def Obligations.DecodeReadsTheOpcodeMap : Prop :=
  decode 0x00000001#32 = .clear ∧ decode 0x00000002#32 = .freqScan ∧ decode 0x00000003#32 = .buildTree ∧
    decode 0x00000004#32 = .genCodes ∧ decode 0x00000005#32 = .pack ∧ decode 0x00000006#32 = .frame ∧
    decode 0x00000007#32 = .parse ∧ decode 0x00000008#32 = .unpack ∧ decode 0x00000009#32 = .compress ∧
    decode 0x0000000A#32 = .decompress ∧ decode 0x00000000#32 = .illegalOpcode00 ∧
    decode 0x0000000B#32 = .illegalOpcode0BFF 0x0B#8 ∧ decode 0x000000FF#32 = .illegalOpcode0BFF 0xFF#8 ∧
    decode 0x00000102#32 = .illegalRsvd 0x000001#24 0x02#8

/-- A word with a non-zero reserved field is illegal, whatever its opcode (30_encoding.md rule R102), and so are the
reserved opcodes (R105); no other word is. Each completes with ILLEGAL_CMD, and no legal word does. -/
def Obligations.IllegalExactlyTheReservedWords : Prop :=
  ∀ w : Word,
    (isIllegal (decode w) = true ↔ (w.toNat / 256 ≠ 0 ∨ w.toNat % 256 = 0 ∨ 0x0B ≤ w.toNat % 256)) ∧
    ∀ s : State, ∃ t, exec (decode w) s = .next t ∧ (t.errCode = .illegalCmd ↔ isIllegal (decode w) = true)

/-- Decoding the word of any well-formed instruction gives that instruction (30_encoding.md rules R100 to R106). -/
def Obligations.DecodeOfEncodeIsTheInstruction : Prop :=
  ∀ i : Instr, i.wellFormed = true → decode (encode i) = i

/-- Decoding is total, gives well-formed instructions only and loses no bit of the word (30_encoding.md R106). -/
def Obligations.EncodeOfDecodeIsTheWord : Prop :=
  ∀ w : Word, (decode w).wellFormed = true ∧ encode (decode w) = w

/-! The step. -/

/-- When it is CORE's turn, BUSY is set and the step is exec of the command word CMD holds, on the state with the
script moved past the turn (46_control.md rule R222, 30_encoding.md rule R106). When it is the host's turn the step is
the host's move: a read or a write is one bus transaction, in IDLE and in BUSY (20_memory.md rule R75), `wait` while
IDLE is one read of STATUS, and `dump` reads OUT_LEN and then that many bytes of OUT (30_encoding.md rule R122); each
reply is kept. Which turn comes when is the model's choice (the script, log entry 5), within the weak fairness of
70_reset_and_hazards.md rule R271. IDLE with no move left the machine waits (60_exceptions.md rule R254). -/
def Obligations.StepRunsTheDecodedCommand : Prop :=
  ∀ (s : State) (rest : List HostMove),
    (turnOf s = .core rest → s.busy = true ∧ step s = exec (decode s.cmd) { s with script := rest }) ∧
    (s.busy = true →
      (s.script = [] → turnOf s = .core []) ∧
      (s.script = .core :: rest → turnOf s = .core rest) ∧
      (s.script = .wait :: rest → turnOf s = .core s.script)) ∧
    (s.busy = false → s.script = [] → step s = .next s) ∧
    (∀ m, turnOf s = .host m rest → s.script = m :: rest ∧ step s = .next (hostStep s m rest)) ∧
    (∀ addr size t reply, s.script = .read addr size :: rest → busRead s addr size = (t, reply) →
      step s = .next { t with script := rest, replies := reply :: s.replies }) ∧
    (∀ addr size data t reply, s.script = .write addr size data :: rest → busWrite s addr size data = (t, reply) →
      step s = .next { t with script := rest, replies := reply :: s.replies }) ∧
    (∀ t reply, s.busy = false → s.script = .wait :: rest → busRead s 0x008#32 4 = (t, reply) →
      step s = .next { t with script := rest, replies := reply :: s.replies }) ∧
    (s.busy = false → s.script = .core :: rest → step s = .next { s with script := rest }) ∧
    (∀ t n resp, s.script = .dump :: rest → busRead s 0x018#32 4 = (t, .read n resp) →
      step s = .next { t with
        script := (List.range n.toNat).map (fun a => .read (BitVec.ofNat 32 (0x80000000 + a)) 1) ++ rest
        replies := .read n resp :: s.replies })

/-- Every command completes, from every state, and no step ever stops the machine (46_control.md rule R222,
60_exceptions.md rule R254); it leaves CMD, IN_LEN, IRQ_EN, the capacities and IN_MEM as they were (10_state.md rules
R25, R36, R40, R43, 20_memory.md rule R71), and OVERRUN (10_state.md rule R29; of CLEAR this is the model's reading
against 70_reset_and_hazards.md rule R264, log entry 13). -/
def Obligations.EveryCommandCompletes : Prop :=
  (∀ (i : Instr) (s : State), ∃ t, exec i s = .next t ∧ Completed s t) ∧ ∀ s : State, Goes (step s)

/-! CLEAR. -/

/-- CLEAR (46_control.md rule R223), with what it does not change; that OVERRUN is as it was is the model's reading of
R223 and 10_state.md rule R29 against 70_reset_and_hazards.md rule R264 (log entry 13). -/
def Obligations.ClearReturnsToResetValues : Prop :=
  ∀ s : State, ∃ t, exec .clear s = .next t ∧ Succeeded s t ∧
    (∀ v, freqOf t v = 0) ∧ NoFlags t ∧ t.outLen = 0 ∧ t.pad = 0 ∧ t.nsym = 0 ∧ t.nnodes = 0 ∧ t.root = 0x1FF#9 ∧
    t.payloadOff = 0 ∧ t.payloadLen = 0 ∧ t.bitlen = 0 ∧ KeepsOut s t ∧ t.nodes = s.nodes ∧ t.codes = s.codes

/-! FREQ_SCAN. -/

/-- FREQ_SCAN (40_frequency.md rule R140): the counts of the input bytes, its flags, its error, its frame. -/
def Obligations.FreqScanCountsTheInput : Prop :=
  ∀ s : State,
    (s.inLen.toNat ≤ s.inCap → ∃ t, exec .freqScan s = .next t ∧ Succeeded s t ∧
      (∀ v, (freqOf t v).toNat = s.input.count v) ∧ NoFlags t ∧
      KeepsTree s t ∧ t.codes = s.codes ∧ KeepsPayloadRegs s t ∧ KeepsOutput s t) ∧
    (s.inCap < s.inLen.toNat → ∃ t, exec .freqScan s = .next t ∧ Failed s t .inLenRange s.inLen ∧
      KeepsResults s t ∧ t.parsed = s.parsed)

/-- The three properties of 40_frequency.md rule R141. -/
def Obligations.FreqScanTableProperties : Prop :=
  ∀ s : State, s.inLen.toNat ≤ s.inCap → ∃ t, exec .freqScan s = .next t ∧
    freqTotal t.freq = s.inLen.toNat ∧
    (∀ v, freqOf t v ≠ 0 ↔ v ∈ s.input) ∧
    ∀ u : State, u.inLen.toNat ≤ u.inCap → u.input.Perm s.input →
      ∃ v, exec .freqScan u = .next v ∧ v.freq = t.freq

/-! BUILD_TREE. -/

/-- WEIGHT_OVERFLOW: the first symbol at which the ascending running sum passes 2^32 - 1 is reported and nothing else
changes (41_tree_builder.md rules R150 and R151). -/
def Obligations.BuildTreeReportsWeightOverflow : Prop :=
  ∀ (s : State) (sym : Nat), sym < 256 → freqSumBelow s.freq sym ≤ 0xFFFFFFFF →
    0xFFFFFFFF < freqSumBelow s.freq (sym + 1) →
    ∃ t, exec .buildTree s = .next t ∧ Failed s t .weightOverflow (BitVec.ofNat 32 sym) ∧
      KeepsResults s t ∧ t.parsed = s.parsed

/-- BUILD_TREE succeeds on every table whose total is at most 2^32 - 1: its flags, NSYM, NNODES and ROOT, the leaves
in ascending symbol order, its frame (41_tree_builder.md rules R150, R152, R155 to R157). -/
def Obligations.BuildTreeMakesLeavesAndCounts : Prop :=
  ∀ s : State, freqTotal s.freq ≤ 0xFFFFFFFF → ∃ t, exec .buildTree s = .next t ∧ Succeeded s t ∧
    t.treeValid = true ∧ t.codesValid = false ∧ t.packed = false ∧ t.parsed = s.parsed ∧
    t.nsym.toNat = (tableSymbols s.freq).length ∧
    t.nnodes.toNat = 2 * (tableSymbols s.freq).length - 1 ∧
    t.root = (if tableSymbols s.freq = [] then NIL
      else BitVec.ofNat 9 (2 * (tableSymbols s.freq).length - 2)) ∧
    (∀ k, ∀ h : k < (tableSymbols s.freq).length,
      nodeNo t k = .leaf (tableSymbols s.freq)[k] (freqOf s (tableSymbols s.freq)[k])) ∧
    t.freq = s.freq ∧ t.codes = s.codes ∧ KeepsPayloadRegs s t ∧ KeepsOutput s t

/-- Each merge takes the two members of the priority queue with the least keys, the first extracted as the left
child, and gives the new node the sum of their weights (41_tree_builder.md rules R153 and R154). -/
def Obligations.BuildTreeMergesTheTwoLeast : Prop :=
  ∀ s : State, freqTotal s.freq ≤ 0xFFFFFFFF → ∃ t, exec .buildTree s = .next t ∧
    ∀ n, t.nsym.toNat ≤ n → n < t.nnodes.toNat → ∃ l r w,
      nodeNo t n = .internal w (BitVec.ofNat 9 l) (BitVec.ofNat 9 r) ∧
      inQueueAt t n l ∧ inQueueAt t n r ∧ keyLess t l r ∧
      (∀ i, inQueueAt t n i → i ≠ l → i ≠ r → keyLess t r i) ∧
      w.toNat = (nodeWeight (nodeNo t l)).toNat + (nodeWeight (nodeNo t r)).toNat

/-- Every node but the root is the child of exactly one internal node (41_tree_builder.md rule R159 item 3). -/
def Obligations.BuiltTreeHasSingleParents : Prop :=
  ∀ s : State, freqTotal s.freq ≤ 0xFFFFFFFF → ∃ t, exec .buildTree s = .next t ∧
    ∀ i, i < t.nnodes.toNat → i ≠ t.root.toNat →
      ∃ n, n < t.nnodes.toNat ∧ hasChild (nodeNo t n) i = true ∧
        ∀ m, m < t.nnodes.toNat → hasChild (nodeNo t m) i = true → m = n

/-- The root's weight is the total of the table, and no node weighs more (41_tree_builder.md rules R151 and R159
item 4). -/
def Obligations.BuiltRootWeighsTheTotal : Prop :=
  ∀ s : State, freqTotal s.freq ≤ 0xFFFFFFFF → tableSymbols s.freq ≠ [] → ∃ t, exec .buildTree s = .next t ∧
    (nodeWeight (nodeAt t.nodes t.root)).toNat = freqTotal s.freq ∧
    ∀ i, i < t.nnodes.toNat → (nodeWeight (nodeNo t i)).toNat ≤ freqTotal s.freq

/-! GEN_CODES. -/

/-- GEN_CODES succeeds on every valid tree: its flags and frame; the empty tree gives no codes (42_code_table.md rule
R173) and a single leaf the code "0" (R172). -/
def Obligations.GenCodesSucceedsOnAValidTree : Prop :=
  ∀ s : State, s.treeValid = true → ∃ t, exec .genCodes s = .next t ∧ Succeeded s t ∧
    t.codesValid = true ∧ t.packed = false ∧ t.treeValid = true ∧ t.parsed = s.parsed ∧
    (s.root = NIL → ∀ v, codeOf t.codes v = []) ∧
    (∀ sym w, s.root ≠ NIL → nodeAt s.nodes s.root = .leaf sym w →
      ∀ v, codeOf t.codes v = if v = sym then [false] else []) ∧
    t.freq = s.freq ∧ KeepsTree s t ∧ KeepsPayloadRegs s t ∧ KeepsOutput s t

/-- With two or more leaves, the code of a symbol of the table is the path from the root to its leaf, and no other
symbol has a code (42_code_table.md rules R170 and R171). -/
def Obligations.CodesAreThePathsToTheLeaves : Prop :=
  ∀ s : State, s.treeValid = true → s.treeFromFreq → 2 ≤ (tableSymbols s.freq).length →
    ∃ t, exec .genCodes s = .next t ∧ ∀ v,
      (freqOf s v ≠ 0 → nodeAt s.nodes (descend s.nodes s.root (codeOf t.codes v)) = .leaf v (freqOf s v)) ∧
      (freqOf s v = 0 → codeOf t.codes v = [])

/-- Every code is 1 to 255 bits, and exactly the symbols of the table have one (42_code_table.md rule R174 items 2
and 3, 41_tree_builder.md rule R158). -/
def Obligations.CodesCoverTheTableWithin255Bits : Prop :=
  ∀ s : State, s.treeValid = true → s.treeFromFreq → ∃ t, exec .genCodes s = .next t ∧ ∀ v,
    (codeOf t.codes v).length ≤ 255 ∧ (codeOf t.codes v ≠ [] ↔ freqOf s v ≠ 0)

/-- No code is a prefix of another (42_code_table.md rule R174 item 1). -/
def Obligations.CodesArePrefixFree : Prop :=
  ∀ s : State, s.treeValid = true → s.treeFromFreq → ∃ t, exec .genCodes s = .next t ∧
    ∀ a b, a ≠ b → codeOf t.codes a ≠ [] → codeOf t.codes b ≠ [] → ¬ codeOf t.codes a <+: codeOf t.codes b

/-! PACK. -/

/-- PACK (43_bit_packer.md rules R180 to R184): the concatenated codes, padded with the least number of 0 bits, most
significant bit first, behind the header; OUT_LEN, PAD, BITLEN, its flags and frame. -/
def Obligations.PackWritesThePaddedCodes : Prop :=
  ∀ (s : State) (bits : BitString), s.capsLegal → s.codesValid = true → s.inLen.toNat ≤ s.inCap →
    (∀ b ∈ s.input, codeOf s.codes b ≠ []) → bits = s.input.flatMap (fun b => codeOf s.codes b) →
    5 + 5 * s.nsym.toNat + (bits.length + 7) / 8 ≤ s.outCap →
    ∃ t, exec .pack s = .next t ∧ Succeeded s t ∧
      t.outLen.toNat = 5 + 5 * s.nsym.toNat + (bits.length + 7) / 8 ∧
      t.pad.toNat = (8 - bits.length % 8) % 8 ∧ t.bitlen.toNat = bits.length ∧
      (∀ j, j < 8 * ((bits.length + 7) / 8) →
        (outByte t (5 + 5 * s.nsym.toNat + j / 8)).getLsbD (7 - j % 8) = bits.getD j false) ∧
      t.packed = true ∧ t.parsed = false ∧ t.treeValid = s.treeValid ∧ t.codesValid = true ∧
      t.freq = s.freq ∧ KeepsTree s t ∧ t.codes = s.codes ∧ KeepsPayloadRegs s t ∧
      KeepsOutOutside s t (5 + 5 * s.nsym.toNat) (5 + 5 * s.nsym.toNat + (bits.length + 7) / 8)

/-- The errors of PACK behind its prerequisite, in their order, with their information words and effects
(43_bit_packer.md rule R180; 60_exceptions.md rules R232, R237, R238). -/
def Obligations.PackErrorsAndTheirEffects : Prop :=
  ∀ s : State, s.codesValid = true →
    (s.inCap < s.inLen.toNat → ∃ t, exec .pack s = .next t ∧ Failed s t .inLenRange s.inLen ∧
      KeepsResults s t ∧ t.parsed = s.parsed) ∧
    (s.inLen.toNat ≤ s.inCap →
      (∀ a, a < s.inLen.toNat → codeOf s.codes (inByte s a) = [] →
        (∀ b, b < a → codeOf s.codes (inByte s b) ≠ []) →
        ∃ t, exec .pack s = .next t ∧ Failed s t .symbolAbsent (BitVec.ofNat 32 a) ∧ DataPhaseFailed s t) ∧
      ((∀ a, a < s.inLen.toNat → codeOf s.codes (inByte s a) ≠ []) →
        s.outCap < 5 + 5 * s.nsym.toNat + ((bitStream s.codes s.input).length + 7) / 8 →
        ∃ t, exec .pack s = .next t ∧
          Failed s t .outOverflow (BitVec.ofNat 32
            (min (5 + 5 * s.nsym.toNat + ((bitStream s.codes s.input).length + 7) / 8) 0xFFFFFFFF)) ∧
          DataPhaseFailed s t))

/-! FRAME and PARSE. -/

/-- FRAME (45_container.md rule R200): the header field by field, its frame. -/
def Obligations.FrameWritesTheHeader : Prop :=
  ∀ (s : State) (syms : List Byte), s.packed = true → syms = tableSymbols s.freq →
    ∃ t, exec .frame s = .next t ∧ Succeeded s t ∧
      be32 (outByte t 0) (outByte t 1) (outByte t 2) (outByte t 3) = BitVec.ofNat 32 (5 * syms.length) ∧
      (∀ k, ∀ h : k < syms.length, outByte t (4 + 5 * k) = syms[k] ∧
        be32 (outByte t (5 + 5 * k)) (outByte t (6 + 5 * k)) (outByte t (7 + 5 * k)) (outByte t (8 + 5 * k)) =
          freqOf s syms[k]) ∧
      outByte t (4 + 5 * syms.length) = s.pad.setWidth 8 ∧
      KeepsOutOutside s t 0 (5 + 5 * syms.length) ∧
      KeepsFlags s t ∧ t.freq = s.freq ∧ KeepsTree s t ∧ t.codes = s.codes ∧ KeepsPayloadRegs s t ∧
      t.pad = s.pad ∧ t.outLen = s.outLen ∧ t.bitlen = s.bitlen

/-- PARSE takes in every canonical container whose padding has bits to drop (45_container.md rule R202, 30_encoding.md
rules R107 to R112): the table, the padding-count, where the payload lies; its flags and frame. -/
def Obligations.ParseReadsACanonicalContainer : Prop :=
  ∀ (s : State) (f : Vector Word 256) (pad : BitVec 3) (payload : List Byte),
    s.inLen.toNat ≤ s.inCap → s.input = containerHeader f pad ++ payload → (pad ≠ 0 → payload ≠ []) →
    ∃ t, exec .parse s = .next t ∧ Succeeded s t ∧
      t.freq = f ∧ t.pad = pad ∧ t.payloadOff.toNat = 5 + 5 * (tableSymbols f).length ∧
      t.payloadLen.toNat = payload.length ∧
      t.parsed = true ∧ t.treeValid = false ∧ t.codesValid = false ∧ t.packed = false ∧
      KeepsTree s t ∧ t.codes = s.codes ∧ t.outLen = s.outLen ∧ t.bitlen = s.bitlen ∧ KeepsOut s t

/-- PARSE takes in nothing else: a container it accepts is the canonical header of what it read, followed by the
payload (45_container.md rules R203 and R204, 30_encoding.md rule R112). -/
def Obligations.ParseAcceptsOnlyCanonicalContainers : Prop :=
  ∀ s t : State, exec .parse s = .next t → t.err = false →
    s.inLen.toNat ≤ s.inCap ∧ ∃ payload, s.input = containerHeader t.freq t.pad ++ payload ∧
      t.payloadLen.toNat = payload.length ∧ t.payloadOff.toNat + payload.length = s.inLen.toNat ∧
      (t.pad ≠ 0 → payload ≠ [])

/-- PARSE's IN_LEN_RANGE and the causes 1 to 3 of 45_container.md rule R203, in their order. That IN_LEN_RANGE keeps
PARSED is R202's word against 10_state.md R33 (log entry 11). -/
def Obligations.ParseRefusesABadPrefix : Prop :=
  ∀ s : State,
    (s.inCap < s.inLen.toNat → ∃ t, exec .parse s = .next t ∧ Failed s t .inLenRange s.inLen ∧
      KeepsResults s t ∧ t.parsed = s.parsed) ∧
    (s.inLen.toNat ≤ s.inCap → s.inLen.toNat < 4 → ∃ t, exec .parse s = .next t ∧
      Failed s t .mcShortHeader s.inLen ∧ KeepsResults s t ∧ t.parsed = false) ∧
    (s.inLen.toNat ≤ s.inCap → 4 ≤ s.inLen.toNat → s.inLen.toNat < 5 + (lengthPrefix s).toNat →
      ∃ t, exec .parse s = .next t ∧ Failed s t .mcLength (lengthPrefix s) ∧ KeepsResults s t ∧ t.parsed = false) ∧
    (s.inLen.toNat ≤ s.inCap → 4 ≤ s.inLen.toNat → 5 + (lengthPrefix s).toNat ≤ s.inLen.toNat →
      ((lengthPrefix s).toNat % 5 ≠ 0 ∨ 1280 < (lengthPrefix s).toNat) →
      ∃ t, exec .parse s = .next t ∧ Failed s t .mcTableFormat (lengthPrefix s) ∧ KeepsResults s t ∧
        t.parsed = false)

/-- Causes 4 and 5 of 45_container.md rule R203: the first record out of order, or with count 0, at its offset; within
one record the order check comes first. -/
def Obligations.ParseRefusesABadRecord : Prop :=
  ∀ (s : State) (k : Nat), s.prefixGood → 5 * k < (lengthPrefix s).toNat → (∀ j, j < k → recordGood s j) →
    ((∃ j, k = j + 1 ∧ (recordSymbol s k).toNat ≤ (recordSymbol s j).toNat) →
      ∃ t, exec .parse s = .next t ∧ Failed s t .mcTableOrder (BitVec.ofNat 32 (4 + 5 * k)) ∧
        KeepsResults s t ∧ t.parsed = false) ∧
    ((∀ j, k = j + 1 → (recordSymbol s j).toNat < (recordSymbol s k).toNat) → recordCount s k = 0 →
      ∃ t, exec .parse s = .next t ∧ Failed s t .mcTableZero (BitVec.ofNat 32 (4 + 5 * k)) ∧
        KeepsResults s t ∧ t.parsed = false)

/-- Causes 6 and 7 of 45_container.md rule R203: a padding byte above 7, or padding with no payload to drop bits
from. -/
def Obligations.ParseRefusesBadPadding : Prop :=
  ∀ (s : State) (pad : Byte), s.prefixGood → (∀ j, 5 * j < (lengthPrefix s).toNat → recordGood s j) →
    pad = inByte s (4 + (lengthPrefix s).toNat) →
    (7 < pad.toNat → ∃ t, exec .parse s = .next t ∧ Failed s t .mcPadding (pad.setWidth 32) ∧
      KeepsResults s t ∧ t.parsed = false) ∧
    (0 < pad.toNat → pad.toNat ≤ 7 → s.inLen.toNat = 5 + (lengthPrefix s).toNat →
      ∃ t, exec .parse s = .next t ∧ Failed s t .mcPadEmpty (pad.setWidth 32) ∧ KeepsResults s t ∧
        t.parsed = false)

/-! UNPACK. -/

/-- The retained bits are the payload's bits, most significant first, less the last padding-count (44_bit_unpacker.md
rule R191, 20_memory.md rule R87), whatever IN_LEN is by now (log entry 12). -/
def Obligations.RetainedBitsAreThePayloadsFirst : Prop :=
  ∀ s : State, (retainedBits s).length = 8 * s.payloadLen.toNat - s.pad.toNat ∧
    ∀ j, j < 8 * s.payloadLen.toNat - s.pad.toNat →
      (retainedBits s)[j]? = some ((inByte s (s.payloadOff.toNat + j / 8)).getLsbD (7 - j % 8))

/-- UNPACK decodes any concatenation of codes of the tree to the bytes it was made of (44_bit_unpacker.md rules R190,
R192 to R194, 42_code_table.md rule R174 item 5); OUT_LEN, BITLEN, its flags and frame. IN_LEN is not in the premises:
the payload is read where PARSE found it (log entry 12). -/
def Obligations.UnpackDecodesConcatenatedCodes : Prop :=
  ∀ (s : State) (out : List Byte), s.capsLegal → s.treeValid = true → s.parsed = true → s.treeFromFreq →
    (∀ b ∈ out, freqOf s b ≠ 0) → retainedBits s = bitStream (codesOf s.nodes s.root) out →
    out.length ≤ s.outCap →
    ∃ t, exec .unpack s = .next t ∧ Succeeded s t ∧
      t.outLen.toNat = out.length ∧ outBytes t 0 out.length = out ∧
      t.bitlen.toNat = 8 * s.payloadLen.toNat - s.pad.toNat ∧
      t.packed = false ∧ t.treeValid = true ∧ t.codesValid = s.codesValid ∧ t.parsed = true ∧
      t.freq = s.freq ∧ KeepsTree s t ∧ t.codes = s.codes ∧ KeepsPayloadRegs s t ∧ t.pad = s.pad ∧
      KeepsOutOutside s t 0 out.length

/-- A walk that ends away from the root is DESYNC(R) (44_bit_unpacker.md rule R195); the spec states no ERR_INFO for an
R of 2^32 or more (log entry 6). OUT_MEM's draw is a free value (log entry 2), and IN_LEN is not in the premises: the
payload is read where PARSE found it (log entry 12). -/
def Obligations.UnpackRefusesAnUnfinishedWalk : Prop :=
  ∀ (s : State) (out : List Byte) (rest more : BitString) (v : Byte),
    s.treeValid = true → s.parsed = true → s.treeFromFreq → (∀ b ∈ out, freqOf s b ≠ 0) → freqOf s v ≠ 0 →
    codeOf (codesOf s.nodes s.root) v = rest ++ more → rest ≠ [] → more ≠ [] →
    retainedBits s = bitStream (codesOf s.nodes s.root) out ++ rest → out.length ≤ s.outCap →
    ∃ t, exec .unpack s = .next t ∧ Failed s t .desync t.errInfo ∧
      ((retainedBits s).length < 2 ^ 32 → t.errInfo = BitVec.ofNat 32 (retainedBits s).length) ∧
      DataPhaseFailed s t

/-- With a leaf as root a 1 bit is DESYNC at its index (44_bit_unpacker.md rule R193), and with the empty tree any
retained bit is DESYNC(0) (R194); the spec states no ERR_INFO for an index of 2^32 or more (log entry 6).
OUT_MEM's draw is a free value (log entry 2), and IN_LEN is not in the premises: the payload is read where PARSE found
it (log entry 12). -/
def Obligations.UnpackRefusesBitsWithoutACode : Prop :=
  ∀ s : State, s.treeValid = true → s.parsed = true →
    (∀ (sym : Byte) (w : Word) (j : Nat) (rest : BitString), s.root ≠ NIL → nodeAt s.nodes s.root = .leaf sym w →
      retainedBits s = List.replicate j false ++ true :: rest → j ≤ s.outCap →
      ∃ t, exec .unpack s = .next t ∧ Failed s t .desync t.errInfo ∧
        (j < 2 ^ 32 → t.errInfo = BitVec.ofNat 32 j) ∧ DataPhaseFailed s t) ∧
    (s.root = NIL → retainedBits s ≠ [] →
      ∃ t, exec .unpack s = .next t ∧ Failed s t .desync 0 ∧ DataPhaseFailed s t)

/-- The emission that finds OUT_CAP bytes already there is OUT_OVERFLOW(OUT_CAP + 1) (44_bit_unpacker.md rule R196).
OUT_MEM's draw is a free value (log entry 2), and IN_LEN is not in the premises: the payload is read where PARSE found
it (log entry 12). -/
def Obligations.UnpackReportsOutputOverflow : Prop :=
  ∀ (s : State) (out : List Byte) (rest : BitString), s.capsLegal → s.treeValid = true → s.parsed = true →
    s.treeFromFreq → (∀ b ∈ out, freqOf s b ≠ 0) →
    retainedBits s = bitStream (codesOf s.nodes s.root) out ++ rest → out.length = s.outCap + 1 →
    ∃ t, exec .unpack s = .next t ∧ Failed s t .outOverflow (BitVec.ofNat 32 (s.outCap + 1)) ∧
      DataPhaseFailed s t

/-! The composites. -/

/-- COMPRESS and DECOMPRESS do what the CORE steps of their step commands do when run one after the other, with no
acceptance between them, up to and with the first that ends in an error, after which OUT_LEN is 0 (46_control.md rule
R227, 60_exceptions.md rule R239). That PACKED is then as that step left it, and so can be 1 with OUT_LEN 0, is the
model's reading against 10_state.md rule R56 item 2 (log entry 9). -/
def Obligations.CompositesRunTheirSteps : Prop :=
  ∀ s : State,
    (∃ t, exec .compress s = .next t ∧ runChain [.freqScan, .buildTree, .genCodes, .pack, .frame] s = some t) ∧
    (∃ t, exec .decompress s = .next t ∧ runChain [.parse, .buildTree, .unpack] s = some t)

/-- COMPRESS makes the container of its input whenever that fits (46_control.md rule R224): the table, the tree and
the codes of the input, the header, the payload, its registers, flags and frame. -/
def Obligations.CompressMakesTheContainer : Prop :=
  ∀ s : State, s.capsLegal → s.inLen.toNat ≤ s.inCap → compressedSize s ≤ s.outCap →
    ∃ (t : State) (bits : BitString) (payload : List Byte), exec .compress s = .next t ∧ Succeeded s t ∧
      t.treeValid = true ∧ t.codesValid = true ∧ t.packed = true ∧ t.parsed = false ∧
      (∀ v, (freqOf t v).toNat = s.input.count v) ∧ t.treeFromFreq ∧ t.codes = codesOf t.nodes t.root ∧
      bits = s.input.flatMap (fun b => codeOf t.codes b) ∧
      t.bitlen.toNat = bits.length ∧ t.pad.toNat = (8 - bits.length % 8) % 8 ∧
      bytesToBits payload = bits ++ List.replicate t.pad.toNat false ∧
      outBytes t 0 t.outLen.toNat = containerHeader t.freq t.pad ++ payload ∧
      t.outLen.toNat = compressedSize s ∧
      KeepsPayloadRegs s t ∧ KeepsOutOutside s t 0 (compressedSize s)

/-- COMPRESS ends only in success, IN_LEN_RANGE or OUT_OVERFLOW (46_control.md rule R224), DECOMPRESS only in the
codes of its row of 60_exceptions.md rule R234, every other command likewise. -/
def Obligations.OnlyTheListedErrorCodes : Prop :=
  ∀ (i : Instr) (s t : State), exec i s = .next t → t.errCode = .none ∨ t.errCode ∈ allowedErrors i

/-- DECOMPRESS decodes every canonical container whose payload is a concatenation of codes of its table
(46_control.md rule R225): the output, its registers, flags and frame. -/
def Obligations.DecompressDecodesTheContainer : Prop :=
  ∀ (s : State) (f : Vector Word 256) (pad : BitVec 3) (payload out : List Byte),
    s.capsLegal → s.inLen.toNat ≤ s.inCap → s.input = containerHeader f pad ++ payload →
    (pad ≠ 0 → payload ≠ []) → freqTotal f ≤ 0xFFFFFFFF → (∀ b ∈ out, f[b.toNat]'b.isLt ≠ 0) →
    (bytesToBits payload).take (8 * payload.length - pad.toNat) = bitStream (codesOfFreq s.nodes f) out →
    out.length ≤ s.outCap →
    ∃ t, exec .decompress s = .next t ∧ Succeeded s t ∧
      t.outLen.toNat = out.length ∧ outBytes t 0 out.length = out ∧
      t.bitlen.toNat = 8 * payload.length - pad.toNat ∧ t.freq = f ∧ t.pad = pad ∧ t.treeFromFreq ∧
      t.payloadOff.toNat = 5 + 5 * (tableSymbols f).length ∧ t.payloadLen.toNat = payload.length ∧
      t.treeValid = true ∧ t.parsed = true ∧ t.codesValid = false ∧ t.packed = false ∧
      t.codes = s.codes ∧ KeepsOutOutside s t 0 out.length

/-- The round trip (44_bit_unpacker.md rule R198): COMPRESS, then the container moved into IN_MEM of a HUFFCORE that
can hold it and the original, then DECOMPRESS, gives the input back, the empty input included. -/
def Obligations.DecompressOfCompressIsTheInput : Prop :=
  ∀ s t u : State, s.capsLegal → u.capsLegal → exec .compress s = .next t → t.err = false →
    u.inLen = t.outLen → u.input = outBytes t 0 t.outLen.toNat → u.inLen.toNat ≤ u.inCap →
    s.inLen.toNat ≤ u.outCap →
    ∃ v, exec .decompress u = .next v ∧ Succeeded u v ∧ v.outLen = s.inLen ∧
      outBytes v 0 v.outLen.toNat = s.input

/-- COMPRESS is a function of the input bytes alone: two HUFFCOREs that both compress the same bytes without an error
(OUT_CAP decides that) make the same container (70_reset_and_hazards.md rule R277, 30_encoding.md rule R112). -/
def Obligations.CompressDependsOnTheInputAlone : Prop :=
  ∀ s u t v : State, s.capsLegal → u.capsLegal → u.input = s.input →
    exec .compress s = .next t → exec .compress u = .next v → t.err = false → v.err = false →
    v.outLen = t.outLen ∧ outBytes v 0 v.outLen.toNat = outBytes t 0 t.outLen.toNat

/-! Illegal words, prerequisites and errors. -/

/-- An illegal command word completes with ILLEGAL_CMD and the whole word as information, and changes nothing else
(46_control.md rule R226); the illegal words are those with OPCODE 0x00 or 0x0B to 0xFF, or CMD[31:8] not 0. -/
def Obligations.IllegalCommandsReportTheWord : Prop :=
  (∀ (s : State) (i : Instr) (op : Byte) (rsvd : BitVec 24),
    (i = .illegalOpcode00 ∨ i = .illegalOpcode0BFF op ∨ i = .illegalRsvd rsvd op) →
    ∃ t, exec i s = .next t ∧ Failed s t .illegalCmd s.cmd ∧ KeepsResults s t ∧ t.parsed = s.parsed) ∧
  ∀ w : Word, (w.toNat / 256 ≠ 0 ∨ w.toNat % 256 = 0 ∨ 0x0B ≤ w.toNat % 256) →
    decode w = .illegalOpcode00 ∨ (∃ op, decode w = .illegalOpcode0BFF op) ∨
      ∃ rsvd op, decode w = .illegalRsvd rsvd op

/-- A command whose prerequisite flags are not all set ends with SEQUENCE and the mask of the missing ones, and
changes nothing else; no command with its flags set ends so (46_control.md rule R221, 60_exceptions.md rule
R232). -/
def Obligations.MissingPrerequisitesRaiseSequence : Prop :=
  ∀ (i : Instr) (s : State),
    (neededFlags i &&& ~~~ statusWord s ≠ 0 → ∃ t, exec i s = .next t ∧
      Failed s t .sequence (neededFlags i &&& ~~~ statusWord s) ∧ KeepsResults s t ∧ t.parsed = s.parsed) ∧
    (neededFlags i &&& ~~~ statusWord s = 0 → ∀ t, exec i s = .next t → t.errCode ≠ .sequence)

/-- Errors are precise (60_exceptions.md rule R237): a step command that ends in an error other than a data-phase
error leaves every register, flag, table and byte as it was, but for the completion fields and PARSED, which PARSE
clears on any error but IN_LEN_RANGE (log entry 11); the same command fails the same way again (R241). -/
def Obligations.ErrorsArePrecise : Prop :=
  ∀ (i : Instr) (s t : State), i ≠ .compress → i ≠ .decompress → exec i s = .next t → t.err = true →
    t.errCode ≠ .symbolAbsent → t.errCode ≠ .outOverflow → t.errCode ≠ .desync →
    Completed s t ∧ KeepsResults s t ∧
      t.parsed = (if i = .parse ∧ t.errCode ≠ .inLenRange then false else s.parsed) ∧ FailsAgain i s t

/-- The data-phase errors of PACK and UNPACK (60_exceptions.md rule R238): OUT_LEN and PACKED 0, OUT_MEM drawn, all
else but the completion fields as it was; the same command fails the same way again (R241). -/
def Obligations.DataPhaseErrorsDrawTheOutput : Prop :=
  ∀ (i : Instr) (s t : State), i ≠ .compress → i ≠ .decompress → exec i s = .next t →
    (t.errCode = .symbolAbsent ∨ t.errCode = .outOverflow ∨ t.errCode = .desync) →
    (i = .pack ∨ i = .unpack) ∧ Completed s t ∧ t.err = true ∧ DataPhaseFailed s t ∧ FailsAgain i s t

/-! The bus, the registers and the interrupt. -/

/-- Acceptance of a command (46_control.md rule R220): what the write to CMD does while IDLE, and nothing else; while
BUSY it is dropped. -/
def Obligations.CmdWriteIssuesTheCommand : Prop :=
  ∀ (s : State) (v : Word),
    (s.busy = true → busWrite s 0x004#32 4 v = ({ s with overrun := true }, .write .okay)) ∧
    (s.busy = false → ∃ t, busWrite s 0x004#32 4 v = (t, .write .okay) ∧
    t.cmd = v ∧ t.busy = true ∧ t.err = false ∧ t.overrun = false ∧ t.errCode = .none ∧ t.errInfo = 0 ∧
    t.irqDone = s.irqDone ∧ t.irqEn = s.irqEn ∧ t.inLen = s.inLen ∧ t.inMem = s.inMem ∧ t.inSeed = s.inSeed ∧
    t.inCap = s.inCap ∧ t.outCap = s.outCap ∧ KeepsResults s t ∧ t.parsed = s.parsed ∧ t.fresh = s.fresh)

/-- An accepted write to FREQ[s] stores the value, clears the four validity flags and changes nothing else
(10_state.md rule R45); while BUSY it is dropped. -/
def Obligations.FreqWriteInvalidates : Prop :=
  ∀ (s : State) (sym : Byte) (v : Word),
    (s.busy = true → busWrite s (BitVec.ofNat 32 (0x400 + 4 * sym.toNat)) 4 v =
      ({ s with overrun := true }, .write .okay)) ∧
    (s.busy = false → ∃ t, busWrite s (BitVec.ofNat 32 (0x400 + 4 * sym.toNat)) 4 v = (t, .write .okay) ∧
      freqOf t sym = v ∧ (∀ w, w ≠ sym → freqOf t w = freqOf s w) ∧ NoFlags t ∧
      KeepsHostSide s t ∧ KeepsTree s t ∧ t.codes = s.codes ∧ KeepsPayloadRegs s t ∧ KeepsOutput s t ∧
      t.busy = false ∧ t.err = s.err ∧ t.errCode = s.errCode ∧ t.errInfo = s.errInfo ∧ t.irqDone = s.irqDone)

/-- An accepted write to the IN window stores the byte and clears PARSED, and changes nothing else (20_memory.md rule
R81); an accepted write to IN_LEN changes IN_LEN alone (10_state.md rule R36). -/
def Obligations.InputWriteClearsParsed : Prop :=
  ∀ (s : State) (a : Nat) (v : Word), s.busy = false → s.capsLegal → a < s.inCap →
    ∃ t, busWrite s (BitVec.ofNat 32 (0x40000000 + a)) 1 v = (t, .write .okay) ∧
      inByte t a = v.setWidth 8 ∧ (∀ b, b ≠ a → inByte t b = inByte s b) ∧ t.parsed = false ∧
      KeepsResults s t ∧ t.cmd = s.cmd ∧ t.busy = false ∧ t.err = s.err ∧ t.overrun = s.overrun ∧
      t.errCode = s.errCode ∧ t.errInfo = s.errInfo ∧ t.inLen = s.inLen ∧ t.irqEn = s.irqEn ∧
      t.irqDone = s.irqDone ∧ t.inCap = s.inCap ∧ t.outCap = s.outCap ∧
      busWrite s 0x014#32 4 v = ({ s with inLen := v }, .write .okay)

/-- While BUSY, CMD, IN_LEN, FREQ and IN writes are dropped, answer OKAY and set OVERRUN; writes to IRQ_EN and
IRQ_STATUS take effect; every other write changes nothing (20_memory.md rule R80, 10_state.md rule R29). -/
def Obligations.BusyDropsWrites : Prop :=
  ∀ (s : State) (addr : Word) (size : Nat) (v : Word), s.busy = true →
    (isDroppedWhileBusy s addr size → busWrite s addr size v = ({ s with overrun := true }, .write .okay)) ∧
    (busWrite s 0x03C#32 4 v = ({ s with irqEn := v.getLsbD 0 }, .write .okay)) ∧
    (busWrite s 0x040#32 4 v = ({ s with irqDone := s.irqDone && !v.getLsbD 0 }, .write .okay)) ∧
    (¬ isDroppedWhileBusy s addr size → ¬ (size = 4 ∧ (addr = 0x03C#32 ∨ addr = 0x040#32)) →
      (busWrite s addr size v).1 = s)

/-- A write to a read-only register or a reserved offset is ignored in IDLE and in BUSY: OKAY and no change; a read of
a reserved offset returns 0 while IDLE (10_state.md rules R53 and R54). -/
def Obligations.ReadOnlyOffsetsIgnoreWrites : Prop :=
  ∀ (s : State) (off : Nat) (v : Word), off < 0x10000 → off % 4 = 0 →
    (off ≠ 0x004 → off ≠ 0x014 → off ≠ 0x03C → off ≠ 0x040 → (off < 0x400 ∨ 0x800 ≤ off) →
      busWrite s (BitVec.ofNat 32 off) 4 v = (s, .write .okay)) ∧
    (s.busy = false → ((0x04C ≤ off ∧ off < 0x400) ∨ (0x800 ≤ off ∧ off < 0x1000) ∨
        (0x1FF8 ≤ off ∧ off < 0x2000) ∨ (0x2400 ≤ off ∧ off < 0x4000) ∨ 0x6000 ≤ off) →
      busRead s (BitVec.ofNat 32 off) 4 = (s, .read 0 .okay))

/-- SLVERR is the response to exactly the four kinds of transaction of 20_memory.md rule R78, and such a transaction
changes no state and reads 0 (R75). -/
def Obligations.SlverrExactlyAsListed : Prop :=
  ∀ (s : State) (addr : Word) (size : Nat) (v : Word),
    (isBadAccess s addr size → busRead s addr size = (s, .read 0 .slverr)) ∧
    (¬ isBadAccess s addr size → ∃ t data, busRead s addr size = (t, .read data .okay)) ∧
    ((isBadAccess s addr size ∨ 0x80000000 ≤ addr.toNat) → busWrite s addr size v = (s, .write .slverr)) ∧
    (¬ (isBadAccess s addr size ∨ 0x80000000 ≤ addr.toNat) → ∃ t, busWrite s addr size v = (t, .write .okay))

/-- A read has no side effect (20_memory.md rule R83): nothing of the machine changes, only the model's counter of
draws may move, and with CORE IDLE not even that. A read of a window while IDLE returns the byte (R82). -/
def Obligations.ReadsHaveNoSideEffect : Prop :=
  ∀ (s : State) (addr : Word) (size : Nat),
    ((busRead s addr size).1 = s ∨ (busRead s addr size).1 = { s with fresh := s.fresh + 1 }) ∧
    (s.busy = false → (busRead s addr size).1 = s ∧
      (∀ a, a < s.inCap → a < 2 ^ 30 → (busRead s (BitVec.ofNat 32 (0x40000000 + a)) 1).2 =
        .read ((inByte s a).setWidth 32) .okay) ∧
      (∀ a, a < s.outCap → a < 2 ^ 30 → (busRead s (BitVec.ofNat 32 (0x80000000 + a)) 1).2 =
        .read ((outByte s a).setWidth 32) .okay))

/-- What each register reads as while IDLE (10_state.md rules R23 to R25 and R34 to R44), with the state as it was: its
field, the bits the spec does not list 0; ERR_CODE is the byte of 60_exceptions.md rule R231. -/
def Obligations.RegistersReadTheirFields : Prop :=
  ∀ s : State, s.busy = false →
    busRead s 0x000#32 4 = (s, .read 0x48554631#32 .okay) ∧
    busRead s 0x004#32 4 = (s, .read s.cmd .okay) ∧
    (∀ c ∈ [(ErrCode.none, 0x00#32), (.illegalCmd, 0x01#32), (.sequence, 0x02#32), (.inLenRange, 0x03#32),
        (.outOverflow, 0x04#32), (.symbolAbsent, 0x05#32), (.weightOverflow, 0x06#32), (.mcShortHeader, 0x10#32),
        (.mcLength, 0x11#32), (.mcTableFormat, 0x12#32), (.mcTableOrder, 0x13#32), (.mcTableZero, 0x14#32),
        (.mcPadding, 0x15#32), (.mcPadEmpty, 0x16#32), (.desync, 0x20#32)],
      s.errCode = c.1 → busRead s 0x00C#32 4 = (s, .read c.2 .okay)) ∧
    busRead s 0x010#32 4 = (s, .read s.errInfo .okay) ∧
    busRead s 0x014#32 4 = (s, .read s.inLen .okay) ∧
    busRead s 0x018#32 4 = (s, .read s.outLen .okay) ∧
    busRead s 0x01C#32 4 = (s, .read (BitVec.ofNat 32 s.pad.toNat) .okay) ∧
    busRead s 0x020#32 4 = (s, .read (BitVec.ofNat 32 s.nsym.toNat) .okay) ∧
    busRead s 0x024#32 4 = (s, .read (BitVec.ofNat 32 s.nnodes.toNat) .okay) ∧
    busRead s 0x028#32 4 = (s, .read (BitVec.ofNat 32 s.root.toNat) .okay) ∧
    busRead s 0x02C#32 4 = (s, .read s.payloadOff .okay) ∧
    busRead s 0x030#32 4 = (s, .read s.payloadLen .okay) ∧
    (∃ lo hi : Word, busRead s 0x034#32 4 = (s, .read lo .okay) ∧ busRead s 0x038#32 4 = (s, .read hi .okay) ∧
      hi.toNat * 2 ^ 32 + lo.toNat = s.bitlen.toNat) ∧
    busRead s 0x03C#32 4 = (s, .read (if s.irqEn then 1#32 else 0#32) .okay) ∧
    busRead s 0x040#32 4 = (s, .read (if s.irqDone then 1#32 else 0#32) .okay) ∧
    ∀ sym : Byte, busRead s (BitVec.ofNat 32 (0x400 + 4 * sym.toNat)) 4 = (s, .read (freqOf s sym) .okay)

/-- While BUSY the result registers and both windows read as fresh draws (the free values of log entry 4), and ID, CMD,
STATUS, the interrupt registers and the capacities as they are (10_state.md rules R27 and R55). -/
def Obligations.BusyReadsAreDraws : Prop :=
  ∀ s : State, s.busy = true →
    busRead s 0x000#32 4 = (s, .read 0x48554631#32 .okay) ∧
    busRead s 0x004#32 4 = (s, .read s.cmd .okay) ∧
    busRead s 0x008#32 4 = (s, .read (statusWord s) .okay) ∧
    busRead s 0x03C#32 4 = (s, .read (if s.irqEn then 1#32 else 0#32) .okay) ∧
    busRead s 0x040#32 4 = (s, .read (if s.irqDone then 1#32 else 0#32) .okay) ∧
    busRead s 0x044#32 4 = (s, .read (BitVec.ofNat 32 s.inCap) .okay) ∧
    busRead s 0x048#32 4 = (s, .read (BitVec.ofNat 32 s.outCap) .okay) ∧
    (∀ off, off % 4 = 0 →
      ((0x00C ≤ off ∧ off < 0x03C) ∨ (0x400 ≤ off ∧ off < 0x800) ∨ (0x1000 ≤ off ∧ off < 0x1FF8) ∨
        (0x2000 ≤ off ∧ off < 0x2400) ∨ (0x4000 ≤ off ∧ off < 0x6000)) →
      busRead s (BitVec.ofNat 32 off) 4 =
        ({ s with fresh := s.fresh + 1 }, .read (Config.freeWord s.fresh) .okay)) ∧
    (∀ a, a < s.inCap → a < 2 ^ 30 → busRead s (BitVec.ofNat 32 (0x40000000 + a)) 1 =
      ({ s with fresh := s.fresh + 1 }, .read ((Config.freeByte s.fresh).setWidth 32) .okay)) ∧
    (∀ a, a < s.outCap → a < 2 ^ 30 → busRead s (BitVec.ofNat 32 (0x80000000 + a)) 1 =
      ({ s with fresh := s.fresh + 1 }, .read ((Config.freeByte s.fresh).setWidth 32) .okay))

/-- The read windows on the tree and the codes (10_state.md rules R47, R49, R50, 30_encoding.md rules R116 to R120):
their words while the flag is 1, and 0 while it is 0. -/
def Obligations.WindowsShowTheTreeAndTheCodes : Prop :=
  ∀ s : State, s.busy = false →
    (∀ i, i < 511 → ∃ w l,
      busRead s (BitVec.ofNat 32 (0x1000 + 8 * i)) 4 = (s, .read w .okay) ∧
      busRead s (BitVec.ofNat 32 (0x1004 + 8 * i)) 4 = (s, .read l .okay) ∧
      (s.treeValid = true → i < s.nnodes.toNat →
        w = nodeWeight (nodeNo s i) ∧
        (∀ sym wt, nodeNo s i = .leaf sym wt → l.toNat = 2 ^ 31 + sym.toNat * 2 ^ 18 + 0x3FFFF) ∧
        (∀ wt left right, nodeNo s i = .internal wt left right →
          l.toNat = left.toNat * 2 ^ 9 + right.toNat)) ∧
      ((s.treeValid = false ∨ s.nnodes.toNat ≤ i) → w = 0 ∧ l = 0)) ∧
    (∀ sym : Byte, ∃ len, busRead s (BitVec.ofNat 32 (0x2000 + 4 * sym.toNat)) 4 = (s, .read len .okay) ∧
      (s.codesValid = true → (codeOf s.codes sym).length ≤ 255 → len.toNat = (codeOf s.codes sym).length) ∧
      (s.codesValid = false → len = 0)) ∧
    (∀ (sym : Byte) (k : Nat), k < 8 → ∃ w,
      busRead s (BitVec.ofNat 32 (0x4000 + 32 * sym.toNat + 4 * k)) 4 = (s, .read w .okay) ∧
      (s.codesValid = true → ∀ t, t < 32 → w.getLsbD (31 - t) = (codeOf s.codes sym).getD (32 * k + t) false) ∧
      (s.codesValid = false → w = 0))

/-- The STATUS register (10_state.md rule R26): the seven flags at their bits, every other bit 0. -/
def Obligations.StatusShowsTheFlags : Prop :=
  ∀ s : State, busRead s 0x008#32 4 = (s, .read (statusWord s) .okay) ∧
    (statusWord s).getLsbD 0 = s.busy ∧ (statusWord s).getLsbD 1 = s.err ∧ (statusWord s).getLsbD 2 = s.overrun ∧
    (statusWord s).getLsbD 3 = false ∧ (statusWord s).getLsbD 4 = s.treeValid ∧
    (statusWord s).getLsbD 5 = s.codesValid ∧ (statusWord s).getLsbD 6 = s.packed ∧
    (statusWord s).getLsbD 7 = s.parsed ∧ ∀ i, 8 ≤ i → (statusWord s).getLsbD i = false

/-- The interrupt (60_exceptions.md rules R243 and R244, 20_memory.md rule R84): every completion sets DONE; no step
but a write of 1 to IRQ_STATUS bit 0 and the reset clears it; IRQ is IE and DONE, in IDLE and in BUSY. -/
def Obligations.InterruptFollowsDoneAndEnable : Prop :=
  ∀ s : State,
    (∀ i, ∃ t, exec i s = .next t ∧ t.irqDone = true ∧ irq t = s.irqEn) ∧
    (∀ t, s.irqDone = true → step s = .next t → t.irqDone = true ∨
      (∃ rest, s.script = .reset :: rest) ∨
      ∃ (v : Word) (rest : List HostMove), v.getLsbD 0 = true ∧ s.script = .write 0x040#32 4 v :: rest) ∧
    (∀ v : Word, busWrite s 0x03C#32 4 v = ({ s with irqEn := v.getLsbD 0 }, .write .okay)) ∧
    (∀ v : Word, v.getLsbD 0 = true → busWrite s 0x040#32 4 v = ({ s with irqDone := false }, .write .okay)) ∧
    (∀ v : Word, v.getLsbD 0 = false → busWrite s 0x040#32 4 v = (s, .write .okay)) ∧
    (∀ v : Word, (s.accept v).irqDone = s.irqDone) ∧
    (irq s = true ↔ s.irqEn = true ∧ s.irqDone = true)

/-! Reset. -/

/-- Reset (10_state.md rule R57, 70_reset_and_hazards.md rules R260 and R261): the values the spec gives, for every
capacity, at power-on and for a reset asserted in any state, a pending command included. The reset of a state fills
both memories with a fresh draw (R262; the free values of log entry 2). -/
def Obligations.ResetLeavesTheStatedValues : Prop :=
  ∀ (s : State) (rest : List HostMove), s.script = .reset :: rest → ∃ t, step s = .next t ∧
    t.inCap = s.inCap ∧ t.outCap = s.outCap ∧
    (∀ a, inByte t a = Config.freeInByte s.fresh a ∧ outByte t a = Config.freeOutByte s.fresh a) ∧
    ∀ u : State, (u = t ∨ u = State.reset) →
      u.busy = false ∧ u.cmd = 0 ∧ statusWord u = 0 ∧ u.errCode = .none ∧ u.errInfo = 0 ∧ u.inLen = 0 ∧
      u.outLen = 0 ∧ u.pad = 0 ∧ u.nsym = 0 ∧ u.nnodes = 0 ∧ u.root = 0x1FF#9 ∧ u.payloadOff = 0 ∧
      u.payloadLen = 0 ∧ u.bitlen = 0 ∧ u.irqEn = false ∧ u.irqDone = false ∧ irq u = false ∧
      (∀ v, freqOf u v = 0) ∧ regValue u .id = 0x48554631#32 ∧
      (∀ a, inByte u a = Config.freeInByte u.inSeed a ∧ outByte u a = Config.freeOutByte u.outSeed a)

/-! Invariants of every step. -/

/-- Right after reset the invariants of 10_state.md rule R56 hold, the capacities are legal and the memories are in
canonical form and inside their windows. -/
def Obligations.ResetMeetsTheInvariants : Prop :=
  State.reset.Inv ∧ State.reset.capsLegal ∧ State.reset.memoryWf ∧ State.reset.inMemFits ∧ State.reset.outMemFits

/-- Every step, of HOST, of CORE and of the reset, keeps the invariants of 10_state.md rule R56 (item 2 but for
OUT_LEN, log entry 9), and that the header of a packed container fits OUT_CAP (45_container.md R200). -/
def Obligations.EveryStepKeepsTheInvariants : Prop :=
  ∀ s t : State, s.Inv → step s = .next t → t.Inv

/-- Every step keeps the canonical form of both memories (the model's, log entry 2), HOST writes IN_MEM below IN_CAP
only (20_memory.md rule R71), and CORE, from a state that meets the invariants, writes OUT_MEM below OUT_CAP only
(R70, R72, 45_container.md rule R200). -/
def Obligations.EveryStepKeepsTheMemoriesCanonical : Prop :=
  ∀ s t : State, step s = .next t →
    (s.memoryWf → t.memoryWf) ∧ (s.inMemFits → t.inMemFits) ∧ (s.Inv → s.outMemFits → t.outMemFits)

/-- IN_CAP and OUT_CAP read the parameters and never change (10_state.md rule R40). -/
def Obligations.CapacitiesAreConstant : Prop :=
  (∀ s t : State, step s = .next t → t.inCap = s.inCap ∧ t.outCap = s.outCap) ∧
    ∀ s : State, s.capsLegal → ∃ a b,
      busRead s 0x044#32 4 = (s, .read a .okay) ∧ a.toNat = s.inCap ∧
      busRead s 0x048#32 4 = (s, .read b .okay) ∧ b.toNat = s.outCap

/-- NSYM, NNODES and ROOT are written only by BUILD_TREE (in a composite too), CLEAR and reset, PAYLOAD_OFF and
PAYLOAD_LEN only by PARSE (in DECOMPRESS too), CLEAR and reset (10_state.md rules R39 and R41). -/
def Obligations.ResultRegistersHaveTheirWriters : Prop :=
  ∀ s t : State, (∀ rest, s.script ≠ .reset :: rest) → step s = .next t →
    ((∀ rest, turnOf s = .core rest →
        decode s.cmd ∉ [Instr.buildTree, Instr.compress, Instr.decompress, Instr.clear]) →
      t.nsym = s.nsym ∧ t.nnodes = s.nnodes ∧ t.root = s.root) ∧
    ((∀ rest, turnOf s = .core rest → decode s.cmd ∉ [Instr.parse, Instr.decompress, Instr.clear]) →
      KeepsPayloadRegs s t)

/-- While BUSY no host move but the reset changes what the pending command works from (20_memory.md rule R91,
10_state.md rule R55): only OVERRUN, the interrupt bits and the model's own fields may move. -/
def Obligations.BusyHostMovesKeepTheCommandsInputs : Prop :=
  ∀ (s : State) (m : HostMove) (rest : List HostMove), s.busy = true → m ≠ .reset →
    hostStep s m rest =
      { s with
        overrun := (hostStep s m rest).overrun
        irqEn := (hostStep s m rest).irqEn
        irqDone := (hostStep s m rest).irqDone
        fresh := (hostStep s m rest).fresh
        script := (hostStep s m rest).script
        replies := (hostStep s m rest).replies }
end

