-- ==== Sys2Proof/Laws/State.lean ====
section
/-! SUPPORT. What each named update of State does to each field: one lemma per field per update, so that no later
proof unfolds a record update. -/

namespace Sys2Proof.Machine

/-- Entry `i` of a table written entry by entry. -/
@[simp] theorem tabulate_getElem {α : Type} (n : Nat) (f : Nat → α) (i : Nat) (h : i < n) :
    (tabulate n f)[i] = f i := by
  simp [tabulate]

section Accept
variable (s : State) (v : Word)

@[simp] theorem State.accept_cmd : (s.accept v).cmd = v := rfl
@[simp] theorem State.accept_busy : (s.accept v).busy = true := rfl
@[simp] theorem State.accept_err : (s.accept v).err = false := rfl
@[simp] theorem State.accept_overrun : (s.accept v).overrun = false := rfl
@[simp] theorem State.accept_treeValid : (s.accept v).treeValid = s.treeValid := rfl
@[simp] theorem State.accept_codesValid : (s.accept v).codesValid = s.codesValid := rfl
@[simp] theorem State.accept_packed : (s.accept v).packed = s.packed := rfl
@[simp] theorem State.accept_parsed : (s.accept v).parsed = s.parsed := rfl
@[simp] theorem State.accept_errCode : (s.accept v).errCode = .none := rfl
@[simp] theorem State.accept_errInfo : (s.accept v).errInfo = 0 := rfl
@[simp] theorem State.accept_inLen : (s.accept v).inLen = s.inLen := rfl
@[simp] theorem State.accept_outLen : (s.accept v).outLen = s.outLen := rfl
@[simp] theorem State.accept_pad : (s.accept v).pad = s.pad := rfl
@[simp] theorem State.accept_nsym : (s.accept v).nsym = s.nsym := rfl
@[simp] theorem State.accept_nnodes : (s.accept v).nnodes = s.nnodes := rfl
@[simp] theorem State.accept_root : (s.accept v).root = s.root := rfl
@[simp] theorem State.accept_payloadOff : (s.accept v).payloadOff = s.payloadOff := rfl
@[simp] theorem State.accept_payloadLen : (s.accept v).payloadLen = s.payloadLen := rfl
@[simp] theorem State.accept_bitlen : (s.accept v).bitlen = s.bitlen := rfl
@[simp] theorem State.accept_irqEn : (s.accept v).irqEn = s.irqEn := rfl
@[simp] theorem State.accept_irqDone : (s.accept v).irqDone = s.irqDone := rfl
@[simp] theorem State.accept_inCap : (s.accept v).inCap = s.inCap := rfl
@[simp] theorem State.accept_outCap : (s.accept v).outCap = s.outCap := rfl
@[simp] theorem State.accept_freq : (s.accept v).freq = s.freq := rfl
@[simp] theorem State.accept_nodes : (s.accept v).nodes = s.nodes := rfl
@[simp] theorem State.accept_codes : (s.accept v).codes = s.codes := rfl
@[simp] theorem State.accept_inMem : (s.accept v).inMem = s.inMem := rfl
@[simp] theorem State.accept_outMem : (s.accept v).outMem = s.outMem := rfl
@[simp] theorem State.accept_inSeed : (s.accept v).inSeed = s.inSeed := rfl
@[simp] theorem State.accept_outSeed : (s.accept v).outSeed = s.outSeed := rfl
@[simp] theorem State.accept_fresh : (s.accept v).fresh = s.fresh := rfl
@[simp] theorem State.accept_script : (s.accept v).script = s.script := rfl
@[simp] theorem State.accept_replies : (s.accept v).replies = s.replies := rfl

end Accept

section Finish
variable (s : State) (e : ErrCode) (info : Word) (b : Bool)

@[simp] theorem State.finish_cmd : (s.finish e info b).cmd = s.cmd := rfl
@[simp] theorem State.finish_busy : (s.finish e info b).busy = false := rfl
@[simp] theorem State.finish_err : (s.finish e info b).err = b := rfl
@[simp] theorem State.finish_overrun : (s.finish e info b).overrun = s.overrun := rfl
@[simp] theorem State.finish_treeValid : (s.finish e info b).treeValid = s.treeValid := rfl
@[simp] theorem State.finish_codesValid : (s.finish e info b).codesValid = s.codesValid := rfl
@[simp] theorem State.finish_packed : (s.finish e info b).packed = s.packed := rfl
@[simp] theorem State.finish_parsed : (s.finish e info b).parsed = s.parsed := rfl
@[simp] theorem State.finish_errCode : (s.finish e info b).errCode = e := rfl
@[simp] theorem State.finish_errInfo : (s.finish e info b).errInfo = info := rfl
@[simp] theorem State.finish_inLen : (s.finish e info b).inLen = s.inLen := rfl
@[simp] theorem State.finish_outLen : (s.finish e info b).outLen = s.outLen := rfl
@[simp] theorem State.finish_pad : (s.finish e info b).pad = s.pad := rfl
@[simp] theorem State.finish_nsym : (s.finish e info b).nsym = s.nsym := rfl
@[simp] theorem State.finish_nnodes : (s.finish e info b).nnodes = s.nnodes := rfl
@[simp] theorem State.finish_root : (s.finish e info b).root = s.root := rfl
@[simp] theorem State.finish_payloadOff : (s.finish e info b).payloadOff = s.payloadOff := rfl
@[simp] theorem State.finish_payloadLen : (s.finish e info b).payloadLen = s.payloadLen := rfl
@[simp] theorem State.finish_bitlen : (s.finish e info b).bitlen = s.bitlen := rfl
@[simp] theorem State.finish_irqEn : (s.finish e info b).irqEn = s.irqEn := rfl
@[simp] theorem State.finish_irqDone : (s.finish e info b).irqDone = true := rfl
@[simp] theorem State.finish_inCap : (s.finish e info b).inCap = s.inCap := rfl
@[simp] theorem State.finish_outCap : (s.finish e info b).outCap = s.outCap := rfl
@[simp] theorem State.finish_freq : (s.finish e info b).freq = s.freq := rfl
@[simp] theorem State.finish_nodes : (s.finish e info b).nodes = s.nodes := rfl
@[simp] theorem State.finish_codes : (s.finish e info b).codes = s.codes := rfl
@[simp] theorem State.finish_inMem : (s.finish e info b).inMem = s.inMem := rfl
@[simp] theorem State.finish_outMem : (s.finish e info b).outMem = s.outMem := rfl
@[simp] theorem State.finish_inSeed : (s.finish e info b).inSeed = s.inSeed := rfl
@[simp] theorem State.finish_outSeed : (s.finish e info b).outSeed = s.outSeed := rfl
@[simp] theorem State.finish_fresh : (s.finish e info b).fresh = s.fresh := rfl
@[simp] theorem State.finish_script : (s.finish e info b).script = s.script := rfl
@[simp] theorem State.finish_replies : (s.finish e info b).replies = s.replies := rfl

end Finish

section Takeerror
variable (s : State) (e : ErrCode) (info : Nat)

@[simp] theorem State.takeError_cmd : (s.takeError e info).cmd = s.cmd := rfl
@[simp] theorem State.takeError_busy : (s.takeError e info).busy = false := rfl
@[simp] theorem State.takeError_err : (s.takeError e info).err = true := rfl
@[simp] theorem State.takeError_overrun : (s.takeError e info).overrun = s.overrun := rfl
@[simp] theorem State.takeError_treeValid : (s.takeError e info).treeValid = s.treeValid := rfl
@[simp] theorem State.takeError_codesValid : (s.takeError e info).codesValid = s.codesValid := rfl
@[simp] theorem State.takeError_packed : (s.takeError e info).packed = s.packed := rfl
@[simp] theorem State.takeError_parsed : (s.takeError e info).parsed = s.parsed := rfl
@[simp] theorem State.takeError_errCode : (s.takeError e info).errCode = e := rfl
@[simp] theorem State.takeError_errInfo : (s.takeError e info).errInfo = errInfoWord info := rfl
@[simp] theorem State.takeError_inLen : (s.takeError e info).inLen = s.inLen := rfl
@[simp] theorem State.takeError_outLen : (s.takeError e info).outLen = s.outLen := rfl
@[simp] theorem State.takeError_pad : (s.takeError e info).pad = s.pad := rfl
@[simp] theorem State.takeError_nsym : (s.takeError e info).nsym = s.nsym := rfl
@[simp] theorem State.takeError_nnodes : (s.takeError e info).nnodes = s.nnodes := rfl
@[simp] theorem State.takeError_root : (s.takeError e info).root = s.root := rfl
@[simp] theorem State.takeError_payloadOff : (s.takeError e info).payloadOff = s.payloadOff := rfl
@[simp] theorem State.takeError_payloadLen : (s.takeError e info).payloadLen = s.payloadLen := rfl
@[simp] theorem State.takeError_bitlen : (s.takeError e info).bitlen = s.bitlen := rfl
@[simp] theorem State.takeError_irqEn : (s.takeError e info).irqEn = s.irqEn := rfl
@[simp] theorem State.takeError_irqDone : (s.takeError e info).irqDone = true := rfl
@[simp] theorem State.takeError_inCap : (s.takeError e info).inCap = s.inCap := rfl
@[simp] theorem State.takeError_outCap : (s.takeError e info).outCap = s.outCap := rfl
@[simp] theorem State.takeError_freq : (s.takeError e info).freq = s.freq := rfl
@[simp] theorem State.takeError_nodes : (s.takeError e info).nodes = s.nodes := rfl
@[simp] theorem State.takeError_codes : (s.takeError e info).codes = s.codes := rfl
@[simp] theorem State.takeError_inMem : (s.takeError e info).inMem = s.inMem := rfl
@[simp] theorem State.takeError_outMem : (s.takeError e info).outMem = s.outMem := rfl
@[simp] theorem State.takeError_inSeed : (s.takeError e info).inSeed = s.inSeed := rfl
@[simp] theorem State.takeError_outSeed : (s.takeError e info).outSeed = s.outSeed := rfl
@[simp] theorem State.takeError_fresh : (s.takeError e info).fresh = s.fresh := rfl
@[simp] theorem State.takeError_script : (s.takeError e info).script = s.script := rfl
@[simp] theorem State.takeError_replies : (s.takeError e info).replies = s.replies := rfl

end Takeerror

section Dataphaseerror
variable (s : State)

@[simp] theorem State.dataPhaseError_cmd : s.dataPhaseError.cmd = s.cmd := rfl
@[simp] theorem State.dataPhaseError_busy : s.dataPhaseError.busy = s.busy := rfl
@[simp] theorem State.dataPhaseError_err : s.dataPhaseError.err = s.err := rfl
@[simp] theorem State.dataPhaseError_overrun : s.dataPhaseError.overrun = s.overrun := rfl
@[simp] theorem State.dataPhaseError_treeValid : s.dataPhaseError.treeValid = s.treeValid := rfl
@[simp] theorem State.dataPhaseError_codesValid : s.dataPhaseError.codesValid = s.codesValid := rfl
@[simp] theorem State.dataPhaseError_packed : s.dataPhaseError.packed = false := rfl
@[simp] theorem State.dataPhaseError_parsed : s.dataPhaseError.parsed = s.parsed := rfl
@[simp] theorem State.dataPhaseError_errCode : s.dataPhaseError.errCode = s.errCode := rfl
@[simp] theorem State.dataPhaseError_errInfo : s.dataPhaseError.errInfo = s.errInfo := rfl
@[simp] theorem State.dataPhaseError_inLen : s.dataPhaseError.inLen = s.inLen := rfl
@[simp] theorem State.dataPhaseError_outLen : s.dataPhaseError.outLen = 0 := rfl
@[simp] theorem State.dataPhaseError_pad : s.dataPhaseError.pad = s.pad := rfl
@[simp] theorem State.dataPhaseError_nsym : s.dataPhaseError.nsym = s.nsym := rfl
@[simp] theorem State.dataPhaseError_nnodes : s.dataPhaseError.nnodes = s.nnodes := rfl
@[simp] theorem State.dataPhaseError_root : s.dataPhaseError.root = s.root := rfl
@[simp] theorem State.dataPhaseError_payloadOff : s.dataPhaseError.payloadOff = s.payloadOff := rfl
@[simp] theorem State.dataPhaseError_payloadLen : s.dataPhaseError.payloadLen = s.payloadLen := rfl
@[simp] theorem State.dataPhaseError_bitlen : s.dataPhaseError.bitlen = s.bitlen := rfl
@[simp] theorem State.dataPhaseError_irqEn : s.dataPhaseError.irqEn = s.irqEn := rfl
@[simp] theorem State.dataPhaseError_irqDone : s.dataPhaseError.irqDone = s.irqDone := rfl
@[simp] theorem State.dataPhaseError_inCap : s.dataPhaseError.inCap = s.inCap := rfl
@[simp] theorem State.dataPhaseError_outCap : s.dataPhaseError.outCap = s.outCap := rfl
@[simp] theorem State.dataPhaseError_freq : s.dataPhaseError.freq = s.freq := rfl
@[simp] theorem State.dataPhaseError_nodes : s.dataPhaseError.nodes = s.nodes := rfl
@[simp] theorem State.dataPhaseError_codes : s.dataPhaseError.codes = s.codes := rfl
@[simp] theorem State.dataPhaseError_inMem : s.dataPhaseError.inMem = s.inMem := rfl
@[simp] theorem State.dataPhaseError_outMem : s.dataPhaseError.outMem = [] := rfl
@[simp] theorem State.dataPhaseError_inSeed : s.dataPhaseError.inSeed = s.inSeed := rfl
@[simp] theorem State.dataPhaseError_outSeed : s.dataPhaseError.outSeed = s.fresh := rfl
@[simp] theorem State.dataPhaseError_fresh : s.dataPhaseError.fresh = s.fresh + 1 := rfl
@[simp] theorem State.dataPhaseError_script : s.dataPhaseError.script = s.script := rfl
@[simp] theorem State.dataPhaseError_replies : s.dataPhaseError.replies = s.replies := rfl

end Dataphaseerror

section Invalidate
variable (s : State)

@[simp] theorem State.invalidate_cmd : s.invalidate.cmd = s.cmd := rfl
@[simp] theorem State.invalidate_busy : s.invalidate.busy = s.busy := rfl
@[simp] theorem State.invalidate_err : s.invalidate.err = s.err := rfl
@[simp] theorem State.invalidate_overrun : s.invalidate.overrun = s.overrun := rfl
@[simp] theorem State.invalidate_treeValid : s.invalidate.treeValid = false := rfl
@[simp] theorem State.invalidate_codesValid : s.invalidate.codesValid = false := rfl
@[simp] theorem State.invalidate_packed : s.invalidate.packed = false := rfl
@[simp] theorem State.invalidate_parsed : s.invalidate.parsed = false := rfl
@[simp] theorem State.invalidate_errCode : s.invalidate.errCode = s.errCode := rfl
@[simp] theorem State.invalidate_errInfo : s.invalidate.errInfo = s.errInfo := rfl
@[simp] theorem State.invalidate_inLen : s.invalidate.inLen = s.inLen := rfl
@[simp] theorem State.invalidate_outLen : s.invalidate.outLen = s.outLen := rfl
@[simp] theorem State.invalidate_pad : s.invalidate.pad = s.pad := rfl
@[simp] theorem State.invalidate_nsym : s.invalidate.nsym = s.nsym := rfl
@[simp] theorem State.invalidate_nnodes : s.invalidate.nnodes = s.nnodes := rfl
@[simp] theorem State.invalidate_root : s.invalidate.root = s.root := rfl
@[simp] theorem State.invalidate_payloadOff : s.invalidate.payloadOff = s.payloadOff := rfl
@[simp] theorem State.invalidate_payloadLen : s.invalidate.payloadLen = s.payloadLen := rfl
@[simp] theorem State.invalidate_bitlen : s.invalidate.bitlen = s.bitlen := rfl
@[simp] theorem State.invalidate_irqEn : s.invalidate.irqEn = s.irqEn := rfl
@[simp] theorem State.invalidate_irqDone : s.invalidate.irqDone = s.irqDone := rfl
@[simp] theorem State.invalidate_inCap : s.invalidate.inCap = s.inCap := rfl
@[simp] theorem State.invalidate_outCap : s.invalidate.outCap = s.outCap := rfl
@[simp] theorem State.invalidate_freq : s.invalidate.freq = s.freq := rfl
@[simp] theorem State.invalidate_nodes : s.invalidate.nodes = s.nodes := rfl
@[simp] theorem State.invalidate_codes : s.invalidate.codes = s.codes := rfl
@[simp] theorem State.invalidate_inMem : s.invalidate.inMem = s.inMem := rfl
@[simp] theorem State.invalidate_outMem : s.invalidate.outMem = s.outMem := rfl
@[simp] theorem State.invalidate_inSeed : s.invalidate.inSeed = s.inSeed := rfl
@[simp] theorem State.invalidate_outSeed : s.invalidate.outSeed = s.outSeed := rfl
@[simp] theorem State.invalidate_fresh : s.invalidate.fresh = s.fresh := rfl
@[simp] theorem State.invalidate_script : s.invalidate.script = s.script := rfl
@[simp] theorem State.invalidate_replies : s.invalidate.replies = s.replies := rfl

end Invalidate

section Drawn
variable (s : State)

@[simp] theorem State.drawn_cmd : s.drawn.cmd = s.cmd := rfl
@[simp] theorem State.drawn_busy : s.drawn.busy = s.busy := rfl
@[simp] theorem State.drawn_err : s.drawn.err = s.err := rfl
@[simp] theorem State.drawn_overrun : s.drawn.overrun = s.overrun := rfl
@[simp] theorem State.drawn_treeValid : s.drawn.treeValid = s.treeValid := rfl
@[simp] theorem State.drawn_codesValid : s.drawn.codesValid = s.codesValid := rfl
@[simp] theorem State.drawn_packed : s.drawn.packed = s.packed := rfl
@[simp] theorem State.drawn_parsed : s.drawn.parsed = s.parsed := rfl
@[simp] theorem State.drawn_errCode : s.drawn.errCode = s.errCode := rfl
@[simp] theorem State.drawn_errInfo : s.drawn.errInfo = s.errInfo := rfl
@[simp] theorem State.drawn_inLen : s.drawn.inLen = s.inLen := rfl
@[simp] theorem State.drawn_outLen : s.drawn.outLen = s.outLen := rfl
@[simp] theorem State.drawn_pad : s.drawn.pad = s.pad := rfl
@[simp] theorem State.drawn_nsym : s.drawn.nsym = s.nsym := rfl
@[simp] theorem State.drawn_nnodes : s.drawn.nnodes = s.nnodes := rfl
@[simp] theorem State.drawn_root : s.drawn.root = s.root := rfl
@[simp] theorem State.drawn_payloadOff : s.drawn.payloadOff = s.payloadOff := rfl
@[simp] theorem State.drawn_payloadLen : s.drawn.payloadLen = s.payloadLen := rfl
@[simp] theorem State.drawn_bitlen : s.drawn.bitlen = s.bitlen := rfl
@[simp] theorem State.drawn_irqEn : s.drawn.irqEn = s.irqEn := rfl
@[simp] theorem State.drawn_irqDone : s.drawn.irqDone = s.irqDone := rfl
@[simp] theorem State.drawn_inCap : s.drawn.inCap = s.inCap := rfl
@[simp] theorem State.drawn_outCap : s.drawn.outCap = s.outCap := rfl
@[simp] theorem State.drawn_freq : s.drawn.freq = s.freq := rfl
@[simp] theorem State.drawn_nodes : s.drawn.nodes = s.nodes := rfl
@[simp] theorem State.drawn_codes : s.drawn.codes = s.codes := rfl
@[simp] theorem State.drawn_inMem : s.drawn.inMem = s.inMem := rfl
@[simp] theorem State.drawn_outMem : s.drawn.outMem = s.outMem := rfl
@[simp] theorem State.drawn_inSeed : s.drawn.inSeed = s.inSeed := rfl
@[simp] theorem State.drawn_outSeed : s.drawn.outSeed = s.outSeed := rfl
@[simp] theorem State.drawn_fresh : s.drawn.fresh = s.fresh + 1 := rfl
@[simp] theorem State.drawn_script : s.drawn.script = s.script := rfl
@[simp] theorem State.drawn_replies : s.drawn.replies = s.replies := rfl

end Drawn

section Dropwrite
variable (s : State)

@[simp] theorem State.dropWrite_cmd : s.dropWrite.cmd = s.cmd := rfl
@[simp] theorem State.dropWrite_busy : s.dropWrite.busy = s.busy := rfl
@[simp] theorem State.dropWrite_err : s.dropWrite.err = s.err := rfl
@[simp] theorem State.dropWrite_overrun : s.dropWrite.overrun = true := rfl
@[simp] theorem State.dropWrite_treeValid : s.dropWrite.treeValid = s.treeValid := rfl
@[simp] theorem State.dropWrite_codesValid : s.dropWrite.codesValid = s.codesValid := rfl
@[simp] theorem State.dropWrite_packed : s.dropWrite.packed = s.packed := rfl
@[simp] theorem State.dropWrite_parsed : s.dropWrite.parsed = s.parsed := rfl
@[simp] theorem State.dropWrite_errCode : s.dropWrite.errCode = s.errCode := rfl
@[simp] theorem State.dropWrite_errInfo : s.dropWrite.errInfo = s.errInfo := rfl
@[simp] theorem State.dropWrite_inLen : s.dropWrite.inLen = s.inLen := rfl
@[simp] theorem State.dropWrite_outLen : s.dropWrite.outLen = s.outLen := rfl
@[simp] theorem State.dropWrite_pad : s.dropWrite.pad = s.pad := rfl
@[simp] theorem State.dropWrite_nsym : s.dropWrite.nsym = s.nsym := rfl
@[simp] theorem State.dropWrite_nnodes : s.dropWrite.nnodes = s.nnodes := rfl
@[simp] theorem State.dropWrite_root : s.dropWrite.root = s.root := rfl
@[simp] theorem State.dropWrite_payloadOff : s.dropWrite.payloadOff = s.payloadOff := rfl
@[simp] theorem State.dropWrite_payloadLen : s.dropWrite.payloadLen = s.payloadLen := rfl
@[simp] theorem State.dropWrite_bitlen : s.dropWrite.bitlen = s.bitlen := rfl
@[simp] theorem State.dropWrite_irqEn : s.dropWrite.irqEn = s.irqEn := rfl
@[simp] theorem State.dropWrite_irqDone : s.dropWrite.irqDone = s.irqDone := rfl
@[simp] theorem State.dropWrite_inCap : s.dropWrite.inCap = s.inCap := rfl
@[simp] theorem State.dropWrite_outCap : s.dropWrite.outCap = s.outCap := rfl
@[simp] theorem State.dropWrite_freq : s.dropWrite.freq = s.freq := rfl
@[simp] theorem State.dropWrite_nodes : s.dropWrite.nodes = s.nodes := rfl
@[simp] theorem State.dropWrite_codes : s.dropWrite.codes = s.codes := rfl
@[simp] theorem State.dropWrite_inMem : s.dropWrite.inMem = s.inMem := rfl
@[simp] theorem State.dropWrite_outMem : s.dropWrite.outMem = s.outMem := rfl
@[simp] theorem State.dropWrite_inSeed : s.dropWrite.inSeed = s.inSeed := rfl
@[simp] theorem State.dropWrite_outSeed : s.dropWrite.outSeed = s.outSeed := rfl
@[simp] theorem State.dropWrite_fresh : s.dropWrite.fresh = s.fresh := rfl
@[simp] theorem State.dropWrite_script : s.dropWrite.script = s.script := rfl
@[simp] theorem State.dropWrite_replies : s.dropWrite.replies = s.replies := rfl

end Dropwrite

section Answer
variable (s : State) (reply : BusReply) (rest : List HostMove)

@[simp] theorem State.answer_cmd : (s.answer reply rest).cmd = s.cmd := rfl
@[simp] theorem State.answer_busy : (s.answer reply rest).busy = s.busy := rfl
@[simp] theorem State.answer_err : (s.answer reply rest).err = s.err := rfl
@[simp] theorem State.answer_overrun : (s.answer reply rest).overrun = s.overrun := rfl
@[simp] theorem State.answer_treeValid : (s.answer reply rest).treeValid = s.treeValid := rfl
@[simp] theorem State.answer_codesValid : (s.answer reply rest).codesValid = s.codesValid := rfl
@[simp] theorem State.answer_packed : (s.answer reply rest).packed = s.packed := rfl
@[simp] theorem State.answer_parsed : (s.answer reply rest).parsed = s.parsed := rfl
@[simp] theorem State.answer_errCode : (s.answer reply rest).errCode = s.errCode := rfl
@[simp] theorem State.answer_errInfo : (s.answer reply rest).errInfo = s.errInfo := rfl
@[simp] theorem State.answer_inLen : (s.answer reply rest).inLen = s.inLen := rfl
@[simp] theorem State.answer_outLen : (s.answer reply rest).outLen = s.outLen := rfl
@[simp] theorem State.answer_pad : (s.answer reply rest).pad = s.pad := rfl
@[simp] theorem State.answer_nsym : (s.answer reply rest).nsym = s.nsym := rfl
@[simp] theorem State.answer_nnodes : (s.answer reply rest).nnodes = s.nnodes := rfl
@[simp] theorem State.answer_root : (s.answer reply rest).root = s.root := rfl
@[simp] theorem State.answer_payloadOff : (s.answer reply rest).payloadOff = s.payloadOff := rfl
@[simp] theorem State.answer_payloadLen : (s.answer reply rest).payloadLen = s.payloadLen := rfl
@[simp] theorem State.answer_bitlen : (s.answer reply rest).bitlen = s.bitlen := rfl
@[simp] theorem State.answer_irqEn : (s.answer reply rest).irqEn = s.irqEn := rfl
@[simp] theorem State.answer_irqDone : (s.answer reply rest).irqDone = s.irqDone := rfl
@[simp] theorem State.answer_inCap : (s.answer reply rest).inCap = s.inCap := rfl
@[simp] theorem State.answer_outCap : (s.answer reply rest).outCap = s.outCap := rfl
@[simp] theorem State.answer_freq : (s.answer reply rest).freq = s.freq := rfl
@[simp] theorem State.answer_nodes : (s.answer reply rest).nodes = s.nodes := rfl
@[simp] theorem State.answer_codes : (s.answer reply rest).codes = s.codes := rfl
@[simp] theorem State.answer_inMem : (s.answer reply rest).inMem = s.inMem := rfl
@[simp] theorem State.answer_outMem : (s.answer reply rest).outMem = s.outMem := rfl
@[simp] theorem State.answer_inSeed : (s.answer reply rest).inSeed = s.inSeed := rfl
@[simp] theorem State.answer_outSeed : (s.answer reply rest).outSeed = s.outSeed := rfl
@[simp] theorem State.answer_fresh : (s.answer reply rest).fresh = s.fresh := rfl
@[simp] theorem State.answer_script : (s.answer reply rest).script = rest := rfl
@[simp] theorem State.answer_replies : (s.answer reply rest).replies = reply :: s.replies := rfl

end Answer

section Hardreset
variable (s : State) (rest : List HostMove)

@[simp] theorem State.hardReset_cmd : (s.hardReset rest).cmd = 0 := rfl
@[simp] theorem State.hardReset_busy : (s.hardReset rest).busy = false := rfl
@[simp] theorem State.hardReset_err : (s.hardReset rest).err = false := rfl
@[simp] theorem State.hardReset_overrun : (s.hardReset rest).overrun = false := rfl
@[simp] theorem State.hardReset_treeValid : (s.hardReset rest).treeValid = false := rfl
@[simp] theorem State.hardReset_codesValid : (s.hardReset rest).codesValid = false := rfl
@[simp] theorem State.hardReset_packed : (s.hardReset rest).packed = false := rfl
@[simp] theorem State.hardReset_parsed : (s.hardReset rest).parsed = false := rfl
@[simp] theorem State.hardReset_errCode : (s.hardReset rest).errCode = .none := rfl
@[simp] theorem State.hardReset_errInfo : (s.hardReset rest).errInfo = 0 := rfl
@[simp] theorem State.hardReset_inLen : (s.hardReset rest).inLen = 0 := rfl
@[simp] theorem State.hardReset_outLen : (s.hardReset rest).outLen = 0 := rfl
@[simp] theorem State.hardReset_pad : (s.hardReset rest).pad = 0 := rfl
@[simp] theorem State.hardReset_nsym : (s.hardReset rest).nsym = 0 := rfl
@[simp] theorem State.hardReset_nnodes : (s.hardReset rest).nnodes = 0 := rfl
@[simp] theorem State.hardReset_root : (s.hardReset rest).root = NIL := rfl
@[simp] theorem State.hardReset_payloadOff : (s.hardReset rest).payloadOff = 0 := rfl
@[simp] theorem State.hardReset_payloadLen : (s.hardReset rest).payloadLen = 0 := rfl
@[simp] theorem State.hardReset_bitlen : (s.hardReset rest).bitlen = 0 := rfl
@[simp] theorem State.hardReset_irqEn : (s.hardReset rest).irqEn = false := rfl
@[simp] theorem State.hardReset_irqDone : (s.hardReset rest).irqDone = false := rfl
@[simp] theorem State.hardReset_inCap : (s.hardReset rest).inCap = s.inCap := rfl
@[simp] theorem State.hardReset_outCap : (s.hardReset rest).outCap = s.outCap := rfl
@[simp] theorem State.hardReset_freq : (s.hardReset rest).freq = tabulate 256 fun _ => 0 := rfl
@[simp] theorem State.hardReset_nodes : (s.hardReset rest).nodes = tabulate 511 fun i => Config.freeNode s.fresh i := rfl
@[simp] theorem State.hardReset_codes : (s.hardReset rest).codes = tabulate 256 fun v => Config.freeCode s.fresh v := rfl
@[simp] theorem State.hardReset_inMem : (s.hardReset rest).inMem = [] := rfl
@[simp] theorem State.hardReset_outMem : (s.hardReset rest).outMem = [] := rfl
@[simp] theorem State.hardReset_inSeed : (s.hardReset rest).inSeed = s.fresh := rfl
@[simp] theorem State.hardReset_outSeed : (s.hardReset rest).outSeed = s.fresh := rfl
@[simp] theorem State.hardReset_fresh : (s.hardReset rest).fresh = s.fresh + 1 := rfl
@[simp] theorem State.hardReset_script : (s.hardReset rest).script = rest := rfl
@[simp] theorem State.hardReset_replies : (s.hardReset rest).replies = s.replies := rfl

end Hardreset

/-- A number that 32 bits hold is its own information word (60_exceptions.md R232). -/
theorem errInfoWord_of_lt {info : Nat} (h : info < 2 ^ 32) : errInfoWord info = BitVec.ofNat 32 info := if_pos h

/-- A 32-bit word is its own information word (60_exceptions.md R232). -/
@[simp] theorem errInfoWord_toNat (w : Word) : errInfoWord w.toNat = w := by
  rw [errInfoWord_of_lt w.isLt, BitVec.ofNat_toNat, BitVec.setWidth_eq]

end Sys2Proof.Machine
end

