-- ==== Sys2Proof/Laws/Bus.lean ====
section
/-! SUPPORT. What the bus operations answer: the address map by region, and every case of a read, a write and a
turn. -/

namespace Sys2Proof.Machine

/-- An address of the register region reaches the register at its offset (20_memory.md R73). -/
theorem targetOf_register (ic oc : Nat) {addr : Word} (h : addr.toNat < 0x10000) :
    targetOf ic oc addr = .register addr.toNat := by
  simp [targetOf, h]

/-- An offset of the register region reaches the register there (20_memory.md R73). -/
theorem targetOf_offset (ic oc : Nat) {off : Nat} (h : off < 0x10000) :
    targetOf ic oc (BitVec.ofNat 32 off) = .register off := by
  have ht : (BitVec.ofNat 32 off).toNat = off := by
    rw [BitVec.toNat_ofNat]
    omega
  rw [targetOf_register ic oc (by omega), ht]

/-- An offset below IN_CAP reaches the byte of the IN window (20_memory.md R73). -/
theorem targetOf_inWindow (ic oc : Nat) {a : Nat} (hc : a < ic) (h : a < 2 ^ 30) :
    targetOf ic oc (BitVec.ofNat 32 (0x40000000 + a)) = .inWindow a := by
  have ht : (BitVec.ofNat 32 (0x40000000 + a)).toNat = 0x40000000 + a := by
    rw [BitVec.toNat_ofNat]
    omega
  simp only [targetOf, ht]
  rw [if_neg (by omega), if_neg (by omega), if_pos (by omega), if_pos (by omega)]
  rw [Nat.add_sub_cancel_left]

/-- An offset below OUT_CAP reaches the byte of the OUT window (20_memory.md R73). -/
theorem targetOf_outWindow (ic oc : Nat) {a : Nat} (hc : a < oc) (h : a < 2 ^ 30) :
    targetOf ic oc (BitVec.ofNat 32 (0x80000000 + a)) = .outWindow a := by
  have ht : (BitVec.ofNat 32 (0x80000000 + a)).toNat = 0x80000000 + a := by
    rw [BitVec.toNat_ofNat]
    omega
  simp only [targetOf, ht]
  rw [if_neg (by omega), if_neg (by omega), if_neg (by omega), if_pos (by omega), if_pos (by omega)]
  rw [Nat.add_sub_cancel_left]

/-- A byte the IN window answers for is below IN_CAP. -/
theorem targetOf_inWindow_lt {ic oc : Nat} {addr : Word} {a : Nat} (h : targetOf ic oc addr = .inWindow a) :
    a < ic := by
  unfold targetOf at h
  by_cases h1 : addr.toNat < 0x10000
  · rw [if_pos h1] at h
    cases h
  rw [if_neg h1] at h
  by_cases h2 : addr.toNat < 0x40000000
  · rw [if_pos h2] at h
    cases h
  rw [if_neg h2] at h
  by_cases h3 : addr.toNat < 0x80000000
  · rw [if_pos h3] at h
    by_cases h4 : addr.toNat - 0x40000000 < ic
    · rw [if_pos h4] at h
      exact Target.inWindow.inj h ▸ h4
    · rw [if_neg h4] at h
      cases h
  rw [if_neg h3] at h
  by_cases h5 : addr.toNat < 0xC0000000
  · rw [if_pos h5] at h
    by_cases h6 : addr.toNat - 0x80000000 < oc
    · rw [if_pos h6] at h
      cases h
    · rw [if_neg h6] at h
      cases h
  · rw [if_neg h5] at h
    cases h

/-- A register read answers its value, or, while BUSY, a draw for a register that is not readable then. -/
theorem readReg_cases (s : State) (r : Reg) :
    (readReg s r = (s, regValue s r) ∧ (s.busy = false ∨ readableWhileBusy r = true)) ∨
    (readReg s r = (s.drawn, Config.freeWord s.fresh) ∧ s.busy = true ∧ readableWhileBusy r = false) := by
  unfold readReg
  cases hb : s.busy <;> cases hr : readableWhileBusy r <;> simp

/-- A window read answers the byte, or a draw while BUSY. -/
theorem readWindow_cases (s : State) (v : Byte) :
    (readWindow s v = (s, v.setWidth 32) ∧ s.busy = false) ∨
    (readWindow s v = (s.drawn, (Config.freeByte s.fresh).setWidth 32) ∧ s.busy = true) := by
  unfold readWindow
  cases hb : s.busy <;> simp

/-- Whose turn it is, case by case. -/
theorem turnOf_cases (s : State) :
    (∃ rest, turnOf s = .core rest ∧ s.busy = true ∧
      ((s.script = [] ∧ rest = []) ∨ s.script = .core :: rest ∨ (rest = s.script ∧ ∃ r, s.script = .wait :: r))) ∨
    (∃ m rest, turnOf s = .host m rest ∧ s.script = m :: rest) ∨
    (turnOf s = .idle ∧ s.script = [] ∧ s.busy = false) := by
  unfold turnOf
  cases hb : s.busy <;> rcases hs : s.script with _ | ⟨m, rest⟩ <;> try (cases m) <;> simp
  all_goals simp

/-- A fetched command word is CORE's next step, with the script as it was (log entry 10). -/
theorem turnOf_withFetchWord (s : State) (nbits w : Nat) : turnOf (s.withFetchWord nbits w) = .core s.script := rfl

end Sys2Proof.Machine
end

