-- ==== Sys2Proof/Laws/Flags.lean ====
section
/-! SUPPORT. What the prerequisite checks answer (46_control.md rule R221), flag by flag. -/

namespace Sys2Proof.Machine

/-- GEN_CODES misses TREE_VALID exactly when it is 0. -/
theorem missingFlags_treeValid (s : State) :
    missingFlags s treeValidBit = if s.treeValid then 0 else 0x10#32 := by
  unfold missingFlags statusWord treeValidBit codesValidBit packedBit parsedBit
  cases s.busy <;> cases s.err <;> cases s.overrun <;> cases s.treeValid <;> cases s.codesValid <;>
    cases s.packed <;> cases s.parsed <;> rfl

/-- PACK misses CODES_VALID exactly when it is 0. -/
theorem missingFlags_codesValid (s : State) :
    missingFlags s codesValidBit = if s.codesValid then 0 else 0x20#32 := by
  unfold missingFlags statusWord treeValidBit codesValidBit packedBit parsedBit
  cases s.busy <;> cases s.err <;> cases s.overrun <;> cases s.treeValid <;> cases s.codesValid <;>
    cases s.packed <;> cases s.parsed <;> rfl

/-- FRAME misses PACKED exactly when it is 0. -/
theorem missingFlags_packed (s : State) :
    missingFlags s packedBit = if s.packed then 0 else 0x40#32 := by
  unfold missingFlags statusWord treeValidBit codesValidBit packedBit parsedBit
  cases s.busy <;> cases s.err <;> cases s.overrun <;> cases s.treeValid <;> cases s.codesValid <;>
    cases s.packed <;> cases s.parsed <;> rfl

/-- UNPACK misses TREE_VALID and PARSED, each exactly when it is 0. -/
theorem missingFlags_treeValid_parsed (s : State) :
    missingFlags s (treeValidBit ||| parsedBit) =
      if s.treeValid then (if s.parsed then 0 else 0x80#32) else (if s.parsed then 0x10#32 else 0x90#32) := by
  unfold missingFlags statusWord treeValidBit codesValidBit packedBit parsedBit
  cases s.busy <;> cases s.err <;> cases s.overrun <;> cases s.treeValid <;> cases s.codesValid <;>
    cases s.packed <;> cases s.parsed <;> rfl

end Sys2Proof.Machine
end

