-- ==== Sys2Proof/Laws/Memory.lean ====
section
/-! SUPPORT. What the memory operations do: a read after a write, and the canonical form that every operation
keeps. -/

namespace Sys2Proof.Machine

/-- A read after a write of the same byte gives the byte written. -/
@[simp] theorem Memory.find_set_same (m : Memory) (a : Nat) (v : Byte) :
    Memory.find (Memory.set m a v) a = some v := by
  induction m with
  | nil => simp [Memory.set, Memory.find]
  | cons c m ih =>
    obtain ⟨b, w⟩ := c
    by_cases hb : b = a
    · simp [Memory.set, Memory.find, hb]
    · by_cases hl : a < b
      · simp [Memory.set, Memory.find, hb, hl]
      · simp [Memory.set, Memory.find, hb, hl, ih]

/-- A write leaves every other byte as it was. -/
theorem Memory.find_set_other (m : Memory) {a b : Nat} (v : Byte) (h : b ≠ a) :
    Memory.find (Memory.set m a v) b = Memory.find m b := by
  induction m with
  | nil =>
    have : a ≠ b := Ne.symm h
    simp [Memory.set, Memory.find, this]
  | cons c m ih =>
    obtain ⟨k, w⟩ := c
    have hab : a ≠ b := Ne.symm h
    by_cases hk : k = a
    · subst hk
      simp [Memory.set, Memory.find, hab]
    · by_cases hl : a < k
      · by_cases hba : b < a
        · have hkb : k ≠ b := by omega
          have hbk : b < k := by omega
          simp [Memory.set, Memory.find, hk, hl, hab, hba, hkb, hbk]
        · simp [Memory.set, Memory.find, hk, hl, hab, hba]
      · simp [Memory.set, Memory.find, hk, hl, ih]

/-- The addresses after a write are the old ones and the one written. -/
theorem Memory.mem_set {m : Memory} {a : Nat} {v : Byte} {c : Host.Cell} (h : c ∈ Memory.set m a v) :
    c = (a, v) ∨ c ∈ m := by
  induction m with
  | nil => simpa [Memory.set] using h
  | cons d m ih =>
    obtain ⟨k, w⟩ := d
    unfold Memory.set at h
    split at h
    · rcases List.mem_cons.1 h with h | h
      · exact .inl h
      · exact .inr (List.mem_cons_of_mem _ h)
    · split at h
      · rcases List.mem_cons.1 h with h | h
        · exact .inl h
        · exact .inr h
      · rcases List.mem_cons.1 h with h | h
        · exact .inr (h ▸ List.mem_cons_self ..)
        · rcases ih h with h | h
          · exact .inl h
          · exact .inr (List.mem_cons_of_mem _ h)

/-- A write keeps the canonical form. -/
theorem Memory.wf_set {m : Memory} (a : Nat) (v : Byte) (h : Memory.wf m) : Memory.wf (Memory.set m a v) := by
  induction m with
  | nil => simp [Memory.set]
  | cons d m ih =>
    obtain ⟨k, w⟩ := d
    obtain ⟨hk, hm⟩ := List.pairwise_cons.1 h
    unfold Memory.set
    split
    · rename_i hka
      subst hka
      exact List.pairwise_cons.2 ⟨hk, hm⟩
    · split
      · rename_i hl
        refine List.pairwise_cons.2 ⟨fun c hc => ?_, h⟩
        rcases List.mem_cons.1 hc with rfl | hc
        · exact hl
        · exact Nat.lt_trans hl (hk c hc)
      · rename_i hne hl
        refine List.pairwise_cons.2 ⟨fun c hc => ?_, ih hm⟩
        rcases Memory.mem_set hc with rfl | hc
        · show k < a
          omega
        · exact hk c hc

/-- Writing a run of bytes keeps the canonical form. -/
theorem Memory.wf_writeBytes {m : Memory} (base : Nat) (bytes : List Byte) (h : Memory.wf m) :
    Memory.wf (Memory.writeBytes m base bytes) := by
  induction bytes generalizing m base with
  | nil => exact h
  | cons v vs ih => exact ih (base + 1) (Memory.wf_set base v h)

/-- A run of bytes leaves every address outside it as it was. -/
theorem Memory.find_writeBytes_outside (m : Memory) (base : Nat) (bytes : List Byte) {a : Nat}
    (h : a < base ∨ base + bytes.length ≤ a) :
    Memory.find (Memory.writeBytes m base bytes) a = Memory.find m a := by
  induction bytes generalizing m base with
  | nil => rfl
  | cons v vs ih =>
    have hlen : (v :: vs).length = vs.length + 1 := rfl
    rw [Memory.writeBytes, ih, Memory.find_set_other]
    · omega
    · omega

/-- Byte `k` of a run stands at `base + k`. -/
theorem Memory.find_writeBytes_inside (m : Memory) (base : Nat) (bytes : List Byte) {k : Nat}
    (h : k < bytes.length) :
    Memory.find (Memory.writeBytes m base bytes) (base + k) = some bytes[k] := by
  induction bytes generalizing m base k with
  | nil => simp at h
  | cons v vs ih =>
    cases k with
    | zero =>
      rw [Memory.writeBytes, Memory.find_writeBytes_outside _ _ _ (Or.inl (by omega))]
      simp
    | succ k =>
      have hk : k < vs.length := by simpa using h
      have := ih (Memory.set m base v) (base + 1) hk
      rw [Memory.writeBytes, show base + (k + 1) = base + 1 + k by omega, this]
      simp

/-- The memories right after reset are in canonical form: nothing is listed. -/
theorem State.reset_memory_wf : Memory.wf State.reset.inMem ∧ Memory.wf State.reset.outMem := by
  simp [State.reset, State.resetWith]

end Sys2Proof.Machine
end

