-- ==== Sys2Proof/Laws/Operands.lean ====
section
/-! SUPPORT. What the shared operand functions do: runs of bytes, the bit and byte orders, and a byte of OUT_MEM
after a run has been written. -/

namespace Sys2Proof.Machine

@[simp] theorem inBytes_length (s : State) (base n : Nat) : (inBytes s base n).length = n := by simp [inBytes]

@[simp] theorem outBytes_length (s : State) (base n : Nat) : (outBytes s base n).length = n := by simp [outBytes]

/-- Byte `k` of a run of IN_MEM is the byte at its offset. -/
theorem inBytes_getElem (s : State) (base n k : Nat) (h : k < n) :
    (inBytes s base n)[k]'(by simpa using h) = inByte s (base + k) := by
  simp [inBytes]

/-- Byte `k` of a run of OUT_MEM is the byte at its offset. -/
theorem outBytes_getElem (s : State) (base n k : Nat) (h : k < n) :
    (outBytes s base n)[k]'(by simpa using h) = outByte s (base + k) := by
  simp [outBytes]

/-- A byte of OUT_MEM outside a run just written reads as before. -/
theorem outByte_writeBytes_outside {s t : State} {base : Nat} {bytes : List Byte}
    (hm : t.outMem = Memory.writeBytes s.outMem base bytes) (hs : t.outSeed = s.outSeed) {a : Nat}
    (h : a < base ∨ base + bytes.length ≤ a) : outByte t a = outByte s a := by
  rw [outByte, outByte, hm, hs, Memory.find_writeBytes_outside _ _ _ h]

/-- Byte `k` of a run just written reads as written. -/
theorem outByte_writeBytes_inside {s t : State} {base : Nat} {bytes : List Byte}
    (hm : t.outMem = Memory.writeBytes s.outMem base bytes) {k : Nat} (h : k < bytes.length) :
    outByte t (base + k) = bytes[k] := by
  rw [outByte, hm, Memory.find_writeBytes_inside _ _ _ h, Option.getD_some]

@[simp] theorem byteBits_length (b : Byte) : (byteBits b).length = 8 := rfl

/-- A byte sequence has eight bits a byte. -/
@[simp] theorem bytesToBits_length (bytes : List Byte) : (bytesToBits bytes).length = 8 * bytes.length := by
  induction bytes with
  | nil => rfl
  | cons b bs ih =>
    have : bytesToBits (b :: bs) = byteBits b ++ bytesToBits bs := by simp [bytesToBits]
    rw [this, List.length_append, ih, byteBits_length, List.length_cons]
    omega

/-- Padding fills the last byte. -/
theorem padCount_spec (len : Nat) : padCount len ≤ 7 ∧ (len + padCount len) % 8 = 0 := by
  unfold padCount
  omega

/-- The byte cut of a bit string gives one byte for each eight bits. -/
theorem bitsToBytes_length : ∀ bits : BitString, (bitsToBytes bits).length = bits.length / 8
  | b7 :: b6 :: b5 :: b4 :: b3 :: b2 :: b1 :: b0 :: rest => by
    rw [bitsToBytes, List.length_cons, bitsToBytes_length rest]
    simp only [List.length_cons]
    omega
  | [] => rfl
  | [_] => by simp [bitsToBytes]
  | [_, _] => by simp [bitsToBytes]
  | [_, _, _] => by simp [bitsToBytes]
  | [_, _, _, _] => by simp [bitsToBytes]
  | [_, _, _, _, _] => by simp [bitsToBytes]
  | [_, _, _, _, _, _] => by simp [bitsToBytes]
  | [_, _, _, _, _, _, _] => by simp [bitsToBytes]

/-- The bits of a byte cut from eight bits are those bits. -/
theorem byteBits_ofBits (b7 b6 b5 b4 b3 b2 b1 b0 : Bool) :
    byteBits (BitVec.ofNat 8 (bitsToNat [b7, b6, b5, b4, b3, b2, b1, b0])) = [b7, b6, b5, b4, b3, b2, b1, b0] := by
  cases b7 <;> cases b6 <;> cases b5 <;> cases b4 <;> cases b3 <;> cases b2 <;> cases b1 <;> cases b0 <;> rfl

/-- Cutting a bit string of whole bytes loses no bit. -/
theorem bytesToBits_bitsToBytes : ∀ bits : BitString, bits.length % 8 = 0 → bytesToBits (bitsToBytes bits) = bits
  | b7 :: b6 :: b5 :: b4 :: b3 :: b2 :: b1 :: b0 :: rest, h => by
    have hr : rest.length % 8 = 0 := by
      simp only [List.length_cons] at h
      omega
    have ih := bytesToBits_bitsToBytes rest hr
    rw [bytesToBits] at ih
    simp only [bitsToBytes, bytesToBits, List.flatMap_cons, byteBits_ofBits, ih, List.cons_append, List.nil_append]
  | [], _ => rfl
  | [_], h => by simp at h
  | [_, _], h => by simp at h
  | [_, _, _], h => by simp at h
  | [_, _, _, _], h => by simp at h
  | [_, _, _, _, _], h => by simp at h
  | [_, _, _, _, _, _], h => by simp at h
  | [_, _, _, _, _, _, _], h => by simp at h

/-- Appending a byte below a word multiplies it by 256. -/
theorem toNat_append_byte {n : Nat} (x : BitVec n) (b : Byte) : (x ++ b).toNat = x.toNat * 256 + b.toNat := by
  rw [BitVec.toNat_append, ← Nat.shiftLeft_add_eq_or_of_lt b.isLt, Nat.shiftLeft_eq]

/-- `BE32` as 00_scope.md R11 defines it. -/
theorem be32_toNat (b0 b1 b2 b3 : Byte) :
    (be32 b0 b1 b2 b3).toNat = b0.toNat * 2 ^ 24 + b1.toNat * 2 ^ 16 + b2.toNat * 2 ^ 8 + b3.toNat := by
  have h : (be32 b0 b1 b2 b3).toNat = (b0 ++ b1 ++ b2 ++ b3).toNat := rfl
  rw [h, toNat_append_byte, toNat_append_byte, toNat_append_byte]
  omega

/-- The four bytes of a word, read back big-endian, are the word. -/
theorem be32_be32Bytes (v : Word) :
    be32 (v.extractLsb' 24 8) (v.extractLsb' 16 8) (v.extractLsb' 8 8) (v.extractLsb' 0 8) = v := by
  apply BitVec.eq_of_toNat_eq
  have hv : v.toNat < 2 ^ 32 := v.isLt
  simp only [be32_toNat, BitVec.extractLsb'_toNat, Nat.shiftRight_eq_div_pow]
  omega

end Sys2Proof.Machine
end

