-- ==== Sys2Proof/Laws/Ops.lean ====
section
/-! SUPPORT. What the shared operations answer: the completion of a CORE step, and the steps of a composite. -/

namespace Sys2Proof.Machine

/-- A completion is a success or an error taken, and nothing else. -/
theorem complete_cases (r : Result) :
    (∃ s, r = .done s ∧ complete r = s.finish .none 0 false) ∨
    (∃ s e info, r = .raised s e info ∧ complete r = s.takeError e info) := by
  cases r with
  | done s => exact .inl ⟨s, rfl, rfl⟩
  | raised s e info => exact .inr ⟨s, e, info, rfl, rfl⟩

/-- Every completion leaves CORE IDLE with DONE set (46_control.md R222). -/
theorem complete_idle (r : Result) : (complete r).busy = false ∧ (complete r).irqDone = true := by
  cases r <;> simp [complete]

@[simp] theorem runSteps_nil (s : State) : runSteps [] s = .done s := rfl

/-- A step that is done lets the next one start from what it left (46_control.md R227). -/
theorem runSteps_done {body : State → Result} {s s' : State} (rest : List (State → Result))
    (h : body s = .done s') : runSteps (body :: rest) s = runSteps rest s' := by
  simp [runSteps, h]

/-- A step that raises ends the composite with OUT_LEN 0 (60_exceptions.md R239). -/
theorem runSteps_raised {body : State → Result} {s s' : State} {e : ErrCode} {info : Nat}
    (rest : List (State → Result)) (h : body s = .raised s' e info) :
    runSteps (body :: rest) s = .raised { s' with outLen := 0 } e info := by
  simp [runSteps, h]

/-- After a data-phase error every byte of OUT_MEM is the byte of the fresh draw (60_exceptions.md R238). -/
@[simp] theorem outByte_dataPhaseError (s : State) (a : Nat) :
    outByte s.dataPhaseError a = Config.freeOutByte s.fresh a := rfl

/-- Taking an error leaves every byte of OUT_MEM as it was. -/
@[simp] theorem outByte_takeError (s : State) (e : ErrCode) (info a : Nat) :
    outByte (s.takeError e info) a = outByte s a := by
  simp [outByte]

/-- Completing leaves every byte of OUT_MEM as it was. -/
@[simp] theorem outByte_finish (s : State) (e : ErrCode) (info : Word) (b : Bool) (a : Nat) :
    outByte (s.finish e info b) a = outByte s a := rfl

/-- A property of every state a body can end in, error or not, that completing keeps, holds at the end of the step. -/
theorem complete_keeps {P : State → Prop} {r : Result} (hdone : ∀ s, r = .done s → P s)
    (hraised : ∀ s e info, r = .raised s e info → P s)
    (hfinish : ∀ s e info b, P s → P (s.finish e info b)) :
    P (complete r) := by
  cases r with
  | done s => exact hfinish s _ _ _ (hdone s rfl)
  | raised s e info =>
    exact hfinish _ _ _ _ (hraised s e info rfl)

/-- A property every step of a composite keeps, and that setting OUT_LEN to 0 keeps, holds wherever it ends. -/
theorem runSteps_keeps {P : State → Prop} {bodies : List (State → Result)} {s : State}
    (hbody : ∀ body ∈ bodies, ∀ u, P u →
      (∀ v, body u = .done v → P v) ∧ ∀ v e info, body u = .raised v e info → P v)
    (hout : ∀ u, P u → P { u with outLen := 0 }) (hs : P s) :
    (∀ t, runSteps bodies s = .done t → P t) ∧ ∀ t e info, runSteps bodies s = .raised t e info → P t := by
  induction bodies generalizing s with
  | nil =>
    refine ⟨fun t h => ?_, fun t e info h => by simp at h⟩
    simp only [runSteps_nil, Result.done.injEq] at h
    exact h ▸ hs
  | cons body rest ih =>
    have hb := hbody body (List.mem_cons_self ..) s hs
    cases hr : body s with
    | done s' =>
      rw [runSteps_done rest hr]
      exact ih (fun b hm => hbody b (List.mem_cons_of_mem _ hm)) (hb.1 s' hr)
    | raised s' e info =>
      rw [runSteps_raised rest hr]
      refine ⟨fun t h => by simp at h, fun t e' info' h => ?_⟩
      simp only [Result.raised.injEq] at h
      exact h.1 ▸ hout s' (hb.2 s' e info hr)

end Sys2Proof.Machine
end

