-- ==== Sys2Proof/Laws/PerInstr.lean ====
section
/-! SUPPORT. A law of every instruction as syntax: the word of a well-formed instruction lies in that instruction's row
of spec/opcode_table.json (its mask, its match and the conditions its note adds). -/

namespace Sys2Proof.Laws.EncodesItsRow

/-- The mask and the match of an instruction's row of spec/opcode_table.json. -/
def row : Instr → Word × Word
  | .clear => (0xFFFFFFFF#32, 0x00000001#32)
  | .freqScan => (0xFFFFFFFF#32, 0x00000002#32)
  | .buildTree => (0xFFFFFFFF#32, 0x00000003#32)
  | .genCodes => (0xFFFFFFFF#32, 0x00000004#32)
  | .pack => (0xFFFFFFFF#32, 0x00000005#32)
  | .frame => (0xFFFFFFFF#32, 0x00000006#32)
  | .parse => (0xFFFFFFFF#32, 0x00000007#32)
  | .unpack => (0xFFFFFFFF#32, 0x00000008#32)
  | .compress => (0xFFFFFFFF#32, 0x00000009#32)
  | .decompress => (0xFFFFFFFF#32, 0x0000000A#32)
  | .illegalOpcode00 => (0xFFFFFFFF#32, 0x00000000#32)
  | .illegalOpcode0BFF _ => (0xFFFFFF00#32, 0x00000000#32)
  | .illegalRsvd _ _ => (0x00000000#32, 0x00000000#32)

/-- The condition a row's note adds to its match. -/
def rowNote : Instr → Word → Prop
  | .illegalOpcode0BFF _, w => 0x0B ≤ (opcodeOf w).toNat
  | .illegalRsvd _ _, w => rsvdOf w ≠ 0
  | _, _ => True

/-- The word of a well-formed instruction matches its row, and the row's note holds of it. -/
def Statement (i : Instr) : Prop :=
  i.wellFormed = true → encode i &&& (row i).1 = (row i).2 ∧ rowNote i (encode i)

/-- The opcode field of a word put together from its two fields. -/
theorem opcodeOf_append (rsvd : BitVec 24) (opcode : Byte) : opcodeOf (rsvd ++ opcode) = opcode := by
  apply BitVec.eq_of_toNat_eq
  have ho : opcode.toNat < 2 ^ 8 := opcode.isLt
  have h : (opcodeOf (rsvd ++ opcode)).toNat = (rsvd ++ opcode).toNat >>> 0 % 2 ^ 8 :=
    BitVec.extractLsb'_toNat ..
  rw [h, Machine.toNat_append_byte, Nat.shiftRight_zero]
  omega

/-- The reserved field of a word put together from its two fields. -/
theorem rsvdOf_append (rsvd : BitVec 24) (opcode : Byte) : rsvdOf (rsvd ++ opcode) = rsvd := by
  apply BitVec.eq_of_toNat_eq
  have ho : opcode.toNat < 2 ^ 8 := opcode.isLt
  have hr : rsvd.toNat < 2 ^ 24 := rsvd.isLt
  have h : (rsvdOf (rsvd ++ opcode)).toNat = (rsvd ++ opcode).toNat >>> 8 % 2 ^ 24 :=
    BitVec.extractLsb'_toNat ..
  rw [h, Machine.toNat_append_byte, Nat.shiftRight_eq_div_pow]
  omega

theorem clear : Statement .clear := fun _ => ⟨rfl, trivial⟩

theorem freqScan : Statement .freqScan := fun _ => ⟨rfl, trivial⟩

theorem buildTree : Statement .buildTree := fun _ => ⟨rfl, trivial⟩

theorem genCodes : Statement .genCodes := fun _ => ⟨rfl, trivial⟩

theorem pack : Statement .pack := fun _ => ⟨rfl, trivial⟩

theorem frame : Statement .frame := fun _ => ⟨rfl, trivial⟩

theorem parse : Statement .parse := fun _ => ⟨rfl, trivial⟩

theorem unpack : Statement .unpack := fun _ => ⟨rfl, trivial⟩

theorem compress : Statement .compress := fun _ => ⟨rfl, trivial⟩

theorem decompress : Statement .decompress := fun _ => ⟨rfl, trivial⟩

theorem illegalOpcode00 : Statement .illegalOpcode00 := fun _ => ⟨rfl, trivial⟩

theorem illegalOpcode0BFF (opcode : Byte) : Statement (.illegalOpcode0BFF opcode) := by
  intro h
  refine ⟨?_, ?_⟩
  · revert opcode
    decide +kernel
  · have he : opcodeOf (encode (.illegalOpcode0BFF opcode)) = opcode := opcodeOf_append 0 opcode
    simpa only [rowNote, he, Instr.wellFormed, reservedOpcode, decide_eq_true_eq] using h

theorem illegalRsvd (rsvd : BitVec 24) (opcode : Byte) : Statement (.illegalRsvd rsvd opcode) := by
  intro h
  have he : rsvdOf (encode (.illegalRsvd rsvd opcode)) = rsvd := rsvdOf_append rsvd opcode
  refine ⟨BitVec.and_zero, ?_⟩
  simpa only [rowNote, he, Instr.wellFormed, nonzeroRsvd, decide_eq_true_eq] using h

end Sys2Proof.Laws.EncodesItsRow
end

