-- ==== Sys2Proof/Tests/Slice0.lean ====
section
/-! SUPPORT. Tests of the model against values taken from spec/ (each names its source), and for every statement of
Certificates/Slice0/Obligations.lean that has premises one named theorem that meets all of them together. -/

namespace Sys2Proof.Tests

open Sys2Proof Sys2Proof.Machine

set_option Elab.async false

/-! WellFormed refuses an ill-formed term, for each check (30_encoding.md R102, R105). -/

theorem test_refuses_a_named_opcode_as_reserved : (Instr.illegalOpcode0BFF 0x05#8).wellFormed = false := by decide
theorem test_refuses_opcode_0A_as_reserved : (Instr.illegalOpcode0BFF 0x0A#8).wellFormed = false := by decide
theorem test_refuses_opcode_00_as_reserved : (Instr.illegalOpcode0BFF 0x00#8).wellFormed = false := by decide
theorem test_refuses_a_zero_rsvd : (Instr.illegalRsvd 0#24 0x05#8).wellFormed = false := by decide

/-! Decoding: each word written out bit by bit from 30_encoding.md R100 to R105, RSVD then OPCODE. -/

theorem test_decode_clear : decode 0b000000000000000000000000_00000001#32 = .clear := by decide
theorem test_decode_freqScan : decode 0b000000000000000000000000_00000010#32 = .freqScan := by decide
theorem test_decode_buildTree : decode 0b000000000000000000000000_00000011#32 = .buildTree := by decide
theorem test_decode_genCodes : decode 0b000000000000000000000000_00000100#32 = .genCodes := by decide
theorem test_decode_pack : decode 0b000000000000000000000000_00000101#32 = .pack := by decide
theorem test_decode_frame : decode 0b000000000000000000000000_00000110#32 = .frame := by decide
theorem test_decode_parse : decode 0b000000000000000000000000_00000111#32 = .parse := by decide
theorem test_decode_unpack : decode 0b000000000000000000000000_00001000#32 = .unpack := by decide
theorem test_decode_compress : decode 0b000000000000000000000000_00001001#32 = .compress := by decide
theorem test_decode_decompress : decode 0b000000000000000000000000_00001010#32 = .decompress := by decide
theorem test_decode_illegalOpcode00 : decode 0b000000000000000000000000_00000000#32 = .illegalOpcode00 := by decide
theorem test_decode_illegalOpcode0BFF :
    decode 0b000000000000000000000000_10000101#32 = .illegalOpcode0BFF 0x85#8 := by decide
/-- 95_test_vectors.md L2.8 row 13: 0x105 is illegal, not PACK. -/
theorem test_decode_illegalRsvd :
    decode 0b000000000000000000000001_00000101#32 = .illegalRsvd 0x000001#24 0x05#8 := by decide
/-- The top bit of RSVD is not dropped. -/
theorem test_decode_illegalRsvd_top :
    decode 0b100000000000000000000000_00000001#32 = .illegalRsvd 0x800000#24 0x01#8 := by decide
theorem test_table_word_pack : decodeTableWord 32 5 = some .pack := by decide

/-! Small states. -/

/-- S0 of 95_test_vectors.md section 0 with the given capacities. -/
def fresh (inCap outCap : Nat) : State := State.resetWith inCap outCap 0

/-- S0 of 95_test_vectors.md section 0. -/
def S0 : State := fresh 4096 4096

/-- `load bytes` (30_encoding.md R122), its effect. -/
def load (bytes : List Byte) (s : State) : State :=
  { s with inMem := Memory.writeBytes [] 0 bytes, inLen := BitVec.ofNat 32 bytes.length, parsed := false }

/-- The counts of a few symbols, every other count 0. -/
def table (counts : List (Byte × Word)) : Vector Word 256 :=
  counts.foldl (fun f c => f.set c.1.toNat c.2 c.1.isLt) (tabulate 256 fun _ => 0)

/-- The state a command leaves. -/
def after (i : Instr) (s : State) : State :=
  match exec i s with
  | .next t => t
  | .fault _ => s
  | .refused _ => s

/-- b"aaabbc". -/
def aaabbc : List Byte := [0x61, 0x61, 0x61, 0x62, 0x62, 0x63]

/-- The table of L1.1. -/
def table1 : Vector Word 256 := table [(0x61, 3), (0x62, 2), (0x63, 1)]

/-- The nodes of L1.1. -/
def nodes1 : List Node :=
  [.leaf 0x61 3, .leaf 0x62 2, .leaf 0x63 1, .internal 3 2 1, .internal 6 0 3]

/-- The state of L1.1 after BUILD_TREE, in a HUFFCORE with the given capacities. -/
def tree1 (inCap outCap : Nat) : State :=
  { load aaabbc (fresh inCap outCap) with
    freq := table1, nodes := storeNodes (fresh inCap outCap).nodes nodes1, nsym := 3, nnodes := 5, root := 4,
    treeValid := true }

/-- The state of L1.1 after GEN_CODES. -/
def codes1 (inCap outCap : Nat) : State :=
  { tree1 inCap outCap with
    codes := ((noCodes.set 0x61 [false]).set 0x62 [true, true]).set 0x63 [true, false], codesValid := true }

/-- The state of L1.1 after PACK. -/
def packed1 : State :=
  { codes1 4096 4096 with
    outMem := [(20, 0x1F), (21, 0x00)], outLen := 22, pad := 7, bitlen := 9, packed := true }

/-- The header of L1.1 without its padding byte ("C" of L2.7). -/
def headerC : List Byte := [0, 0, 0, 0x0F, 0x61, 0, 0, 0, 3, 0x62, 0, 0, 0, 2, 0x63, 0, 0, 0, 1]

/-- The container of L1.1. -/
def container1 : List Byte := headerC ++ [7, 0x1F, 0]

/-- The state after PARSE and BUILD_TREE of `headerC`, a padding byte and a payload (L2.7). -/
def parsed1 (inCap outCap : Nat) (pad : BitVec 3) (payload : List Byte) : State :=
  { tree1 inCap outCap with
    inMem := Memory.writeBytes [] 0 (headerC ++ [pad.setWidth 8] ++ payload)
    inLen := BitVec.ofNat 32 (20 + payload.length), parsed := true, pad := pad
    payloadOff := 20, payloadLen := BitVec.ofNat 32 payload.length }

/-- A tree of one leaf, 0x41 (L2.2 row 3), parsed with a padding-count and a payload (L2.7 rows 9 and 10). -/
def leaf1 (pad : BitVec 3) (payload : List Byte) : State :=
  { load ([0, 0, 0, 5, 0x41, 0, 0, 0, 1, pad.setWidth 8] ++ payload) S0 with
    freq := table [(0x41, 1)], nodes := storeNodes S0.nodes [.leaf 0x41 1], nsym := 1, nnodes := 1, root := 0
    treeValid := true, parsed := true, pad := pad, payloadOff := 10
    payloadLen := BitVec.ofNat 32 payload.length }

/-- The empty tree (L2.2 row 1), parsed with a payload (L2.7 rows 11 and 12). -/
def empty1 (payload : List Byte) : State :=
  { load ([0, 0, 0, 0, 0] ++ payload) S0 with
    treeValid := true, parsed := true, payloadOff := 5, payloadLen := BitVec.ofNat 32 payload.length }

/-! One step of each instruction, against 95_test_vectors.md. -/

/-- L2.8 row 8. -/
theorem test_clear : freqOf (after .clear packed1) 0x61 = 0 ∧ statusWord (after .clear packed1) = 0 ∧
    (after .clear packed1).root = 0x1FF#9 ∧ (after .clear packed1).inLen = 6 := by decide +kernel
/-- L2.8 row 8: CLEAR sets DONE; 10_state.md R29: it leaves OVERRUN (log entry 13). -/
theorem test_clear_done : (after .clear packed1).irqDone = true ∧ (after .clear packed1).outLen = 0 ∧
    (after .clear { S0 with overrun := true }).overrun = true := by decide +kernel

/-- L2.1 row 1. -/
theorem test_freqScan : freqOf (after .freqScan (load aaabbc S0)) 0x61 = 3 ∧
    freqOf (after .freqScan (load aaabbc S0)) 0x63 = 1 ∧ freqOf (after .freqScan (load aaabbc S0)) 0x60 = 0 := by
  decide +kernel
/-- L2.1 row 4. -/
theorem test_freqScan_range :
    (after .freqScan { S0 with inLen := 0x1001 }).errCode = .inLenRange ∧
      (after .freqScan { S0 with inLen := 0x1001 }).errInfo = 0x1001 := by decide +kernel

/-- L1.1, the node table. -/
theorem test_buildTree : (after .buildTree { S0 with freq := table1 }).nodes.toList.take 5 = nodes1 ∧
    (after .buildTree { S0 with freq := table1 }).root = 4 := by decide +kernel
/-- L2.2 row 4. -/
theorem test_buildTree_overflow :
    (after .buildTree { S0 with freq := table [(0x10, 0xFFFFFFFF), (0x20, 1)] }).errCode = .weightOverflow ∧
      (after .buildTree { S0 with freq := table [(0x10, 0xFFFFFFFF), (0x20, 1)] }).errInfo = 0x20 := by
  decide +kernel

/-- L1.1: a = "0", b = "11", c = "10". -/
theorem test_genCodes : codeOf (after .genCodes (tree1 4096 4096)).codes 0x61 = [false] ∧
    codeOf (after .genCodes (tree1 4096 4096)).codes 0x62 = [true, true] ∧
    codeOf (after .genCodes (tree1 4096 4096)).codes 0x63 = [true, false] ∧
    statusWord (after .genCodes (tree1 4096 4096)) = 0x30 := by decide +kernel
/-- L2.3 row 4: the single leaf has the code "0". -/
theorem test_genCodes_leaf :
    codeOf (after .genCodes (leaf1 0 [])).codes 0x41 = [false] := by decide +kernel

/-- L2.4 row 2. -/
theorem test_pack : outBytes (after .pack (codes1 4096 4096)) 20 2 = [0x1F, 0x00] ∧
    (after .pack (codes1 4096 4096)).pad = 7 ∧ (after .pack (codes1 4096 4096)).outLen = 22 := by decide +kernel
/-- L2.4 row 5: OUT_CAP 21 is one too small. -/
theorem test_pack_overflow : (after .pack (codes1 4096 21)).errCode = .outOverflow ∧
    (after .pack (codes1 4096 21)).errInfo = 22 := by decide +kernel

/-- L2.5 row 2. -/
theorem test_frame : outBytes (after .frame packed1) 0 22 = container1 := by decide +kernel
/-- L2.5 row 1. -/
theorem test_frame_sequence :
    (after .frame S0).errCode = .sequence ∧ (after .frame S0).errInfo = 0x40 := by decide +kernel

/-- L2.6 row 1. -/
theorem test_parse : freqOf (after .parse (load container1 S0)) 0x62 = 2 ∧
    (after .parse (load container1 S0)).payloadOff = 20 ∧
    statusWord (after .parse (load container1 S0)) = 0x80 := by decide +kernel
/-- L2.6 row 9: a duplicate symbol; 45_container.md R202: "On IN_LEN_RANGE nothing changes" (log entry 11). -/
theorem test_parse_errors :
    (after .parse (load [0, 0, 0, 0x0A, 0x61, 0, 0, 0, 1, 0x61, 0, 0, 0, 1, 0, 0x80] S0)).errCode =
      .mcTableOrder ∧
    (after .parse (load [0, 0, 0, 0x0A, 0x61, 0, 0, 0, 1, 0x61, 0, 0, 0, 1, 0, 0x80] S0)).errInfo = 9 ∧
    (after .parse { empty1 [] with inLen := 0x1001 }).parsed = true := by
  decide +kernel

/-- L2.7 rows 3 and 9; 20_memory.md R90: the payload is read although IN_LEN was lowered (log entry 12). -/
theorem test_unpack : outBytes (after .unpack (parsed1 4096 4096 7 [0x1F, 0])) 0 6 = aaabbc ∧
    (after .unpack (parsed1 4096 4096 7 [0x1F, 0])).outLen = 6 ∧
    outBytes (after .unpack { leaf1 5 [0] with inLen := 0 }) 0 3 = [0x41, 0x41, 0x41] := by decide +kernel
/-- L2.7 row 8: the sixth emission overflows OUT_CAP 5. -/
theorem test_unpack_overflow : (after .unpack (parsed1 4096 5 7 [0x1F, 0])).errCode = .outOverflow ∧
    (after .unpack (parsed1 4096 5 7 [0x1F, 0])).errInfo = 6 := by decide +kernel

/-- L2.8 row 1. -/
theorem test_compress :
    outBytes (after .compress (load aaabbc S0)) 0 22 = container1 ∧
      (after .compress (load aaabbc S0)).bitlen = 9 := by decide +kernel
/-- 60_exceptions.md R239: a COMPRESS that ends in IN_LEN_RANGE sets OUT_LEN to 0, and PACKED stays as it was. -/
theorem test_compress_refused :
    (after .compress { packed1 with inLen := 0x2000 }).outLen = 0 ∧
      (after .compress { packed1 with inLen := 0x2000 }).packed = true ∧
      (after .compress { packed1 with inLen := 0x2000 }).errCode = .inLenRange := by decide +kernel

/-- L1.1, the way back. -/
theorem test_decompress :
    outBytes (after .decompress (load container1 S0)) 0 6 = aaabbc ∧
      statusWord (after .decompress (load container1 S0)) = 0x90 := by decide +kernel
/-- L2.8 row 7: the PARSE step stays done. -/
theorem test_decompress_overflow :
    statusWord (after .decompress
      (load [0, 0, 0, 0x0A, 0x61, 0xFF, 0xFF, 0xFF, 0xFF, 0x62, 0, 0, 0, 1, 0] S0)) = 0x82 := by decide +kernel

/-- L2.8 row 11, through the fetch. -/
theorem test_illegalOpcode00 : step (S0.withFetchWord 32 0) =
    .next { S0 with err := true, errCode := .illegalCmd, irqDone := true } := by rfl
/-- L2.8 row 12. -/
theorem test_illegalOpcode0BFF : (after (.illegalOpcode0BFF 0x0B) (S0.accept 0x0B)).errInfo = 0x0B := by
  decide +kernel
/-- L2.8 row 13. -/
theorem test_illegalRsvd : (after (.illegalRsvd 1 0x05) (S0.accept 0x105)).errInfo = 0x105 ∧
    (after (.illegalRsvd 1 0x05) (S0.accept 0x105)).errCode = .illegalCmd := by decide +kernel

/-! The bus, against L2.9. -/

/-- `wr CMD, 0x09` (L2.9, before row 13), as a step of the host: the command is accepted and the reply kept. -/
theorem test_step_write : step { S0 with script := [.write 0x004#32 4 9] } =
    .next { S0.accept 9 with replies := [.write .okay] } := by rfl
/-- Row 1, as a step of the host. -/
theorem test_step_read : step { S0 with script := [.read 0x000#32 4, .wait] } =
    .next { S0 with script := [.wait], replies := [.read 0x48554631 .okay] } := by rfl

/-- ERR_CODE reads 0x16 and 0x20 for the last two codes of 60_exceptions.md R231. -/
theorem test_read_err_code : (busRead { S0 with errCode := .mcPadEmpty } 0x00C#32 4).2 = .read 0x16 .okay ∧
    (busRead { S0 with errCode := .desync } 0x00C#32 4).2 = .read 0x20 .okay := by decide +kernel
/-- Row 14: CMD reads as it is while BUSY. -/
theorem test_read_cmd_busy : (busRead (S0.accept 9) 0x004#32 4).2 = .read 9 .okay := by decide +kernel

/-- Row 3. -/
theorem test_read_root : (busRead S0 0x028#32 4).2 = .read 0x1FF .okay := by decide +kernel
/-- Row 7. -/
theorem test_read_misaligned : (busRead S0 0x002#32 4).2 = .read 0 .slverr := by decide +kernel
/-- Row 11: the first address past IN_MEM. -/
theorem test_read_past_in : (busRead S0 0x40001000#32 1).2 = .read 0 .slverr := by decide +kernel
/-- Row 17. -/
theorem test_busy_write_dropped :
    busWrite ((load aaabbc S0).accept 9) 0x40000000#32 1 0x7A =
      ({ (load aaabbc S0).accept 9 with overrun := true }, .write .okay) := by rfl
/-- NODE_L of node 3 and CODE_BITS of 0x62 (L1.1). -/
theorem test_windows : (busRead (codes1 4096 4096) 0x0000101C#32 4).2 = .read 0x00000401 .okay ∧
    (busRead (codes1 4096 4096) 0x00004C40#32 4).2 = .read 0xC0000000 .okay := by decide +kernel
/-- ERR_INFO of a number that 32 bits cannot hold is the free value (log entry 6). -/
theorem test_err_info_beyond_32_bits :
    (S0.takeError .desync (2 ^ 32)).errInfo = Config.freeInfo (2 ^ 32) ∧
      (S0.takeError .desync (2 ^ 32 - 1)).errInfo = 0xFFFFFFFF := by constructor <;> rfl

/-! Witnesses: for each statement with premises, a state and operands that meet them. -/

/-- DecodeOfEncodeIsTheInstruction, at both ends of the reserved range. -/
theorem witness_well_formed : (Instr.illegalOpcode0BFF 0x0B).wellFormed = true ∧
    (Instr.illegalOpcode0BFF 0xFF).wellFormed = true ∧ (Instr.illegalRsvd 1 0).wellFormed = true := by decide

/-- StepRunsTheDecodedCommand: each way the turn comes to CORE, and the wait. -/
theorem witness_turns : turnOf (S0.accept 1) = .core [] ∧
    turnOf { S0.accept 1 with script := [.core, .dump] } = .core [.dump] ∧
    turnOf { S0.accept 1 with script := [.wait] } = .core [.wait] ∧
    (S0.accept 1).busy = true ∧ S0.busy = false ∧ S0.script = [] := by decide +kernel

/-- StepRunsTheDecodedCommand: each move at the host's turn, the read and the write in BUSY too. -/
theorem witness_host_turns :
    turnOf { S0.accept 1 with script := [.read 0x008#32 4] } = .host (.read 0x008#32 4) [] ∧
    turnOf { S0.accept 1 with script := [.write 0x03C#32 4 1] } = .host (.write 0x03C#32 4 1) [] ∧
    turnOf { S0 with script := [.wait] } = .host .wait [] ∧ turnOf { S0 with script := [.core] } = .host .core [] ∧
    turnOf { S0 with script := [.dump] } = .host .dump [] ∧ (busRead S0 0x018#32 4).2 = .read 0 .okay := by
  decide +kernel

/-- FreqScanCountsTheInput, ParseRefusesABadPrefix: IN_LEN at IN_CAP and one past it. -/
theorem witness_in_len : (load [1, 2, 3, 4, 5] (fresh 5 5)).inLen.toNat ≤ (load [1, 2, 3, 4, 5] (fresh 5 5)).inCap ∧
    (fresh 5 5).inCap < { fresh 5 5 with inLen := 6 }.inLen.toNat := by decide +kernel

/-- FreqScanTableProperties: two inputs that differ in their order only. -/
theorem witness_permuted : (load [1, 2] (fresh 5 5)).inLen.toNat ≤ (load [1, 2] (fresh 5 5)).inCap ∧
    (load [2, 1] (fresh 5 5)).input.Perm (load [1, 2] (fresh 5 5)).input := by decide +kernel

/-- BuildTreeReportsWeightOverflow, at the sum 2^32 (L2.2 row 4). -/
theorem witness_weight_overflow :
    freqSumBelow (table [(0x10, 0xFFFFFFFF), (0x20, 1)]) 0x20 ≤ 0xFFFFFFFF ∧
      0xFFFFFFFF < freqSumBelow (table [(0x10, 0xFFFFFFFF), (0x20, 1)]) 0x21 := by decide +kernel

/-- BuildTreeMakesLeavesAndCounts and the three statements after it, at the sum 2^32 - 1 (L2.2 row 5). -/
theorem witness_weight_limit : freqTotal (table [(0x10, 0xFFFFFFFE), (0x20, 1)]) ≤ 0xFFFFFFFF ∧
    tableSymbols (table [(0x10, 0xFFFFFFFE), (0x20, 1)]) = [0x10, 0x20] := by decide +kernel

/-- BuildTreeMergesTheTwoLeast, BuiltTreeHasSingleParents: a node that a merge made, and one that is not the root. -/
theorem witness_merge : (after .buildTree { S0 with freq := table1 }).nsym.toNat ≤ 3 ∧
    3 < (after .buildTree { S0 with freq := table1 }).nnodes.toNat ∧
    3 ≠ (after .buildTree { S0 with freq := table1 }).root.toNat := by decide +kernel

/-- GenCodesSucceedsOnAValidTree: the empty tree. -/
theorem witness_empty_tree : (empty1 []).treeValid = true ∧ (empty1 []).root = NIL := by decide +kernel

/-- GenCodesSucceedsOnAValidTree: a tree of one leaf. -/
theorem witness_leaf_tree : (leaf1 0 []).treeValid = true ∧ (leaf1 0 []).root ≠ NIL ∧
    nodeAt (leaf1 0 []).nodes (leaf1 0 []).root = .leaf 0x41 1 := by decide +kernel

/-- CodesAreThePathsToTheLeaves, CodesCoverTheTableWithin255Bits and CodesArePrefixFree. -/
theorem witness_valid_tree : (tree1 5 5).treeValid = true ∧ (tree1 5 5).treeFromFreq ∧
    2 ≤ (tableSymbols (tree1 5 5).freq).length := by decide +kernel

/-- CodesArePrefixFree: two symbols with codes. -/
theorem witness_two_codes : codeOf (after .genCodes (tree1 5 5)).codes 0x61 ≠ [] ∧
    codeOf (after .genCodes (tree1 5 5)).codes 0x62 ≠ [] := by decide +kernel

/-- PackWritesThePaddedCodes, at the least OUT_CAP that holds the container (L2.4 row 6). -/
theorem witness_pack : (codes1 6 22).capsLegal ∧ (codes1 6 22).codesValid = true ∧
    (codes1 6 22).inLen.toNat ≤ (codes1 6 22).inCap ∧
    (∀ b ∈ (codes1 6 22).input, codeOf (codes1 6 22).codes b ≠ []) ∧
    5 + 5 * (codes1 6 22).nsym.toNat +
      (((codes1 6 22).input.flatMap (fun b => codeOf (codes1 6 22).codes b)).length + 7) / 8 = (codes1 6 22).outCap := by
  decide +kernel

/-- PackErrorsAndTheirEffects: IN_LEN past IN_CAP, a byte without a code (L2.4 row 3), OUT_CAP one too small. -/
theorem witness_pack_errors : (codes1 5 22).codesValid = true ∧ (codes1 5 22).inCap < (codes1 5 22).inLen.toNat ∧
    (codeOf (codes1 6 22).codes 0x7A = [] ∧ inByte (load [0x61, 0x7A] (codes1 6 22)) 1 = 0x7A ∧
      1 < (load [0x61, 0x7A] (codes1 6 22)).inLen.toNat ∧
      ∀ b, b < 1 → codeOf (codes1 6 22).codes (inByte (load [0x61, 0x7A] (codes1 6 22)) b) ≠ []) ∧
    ((∀ a, a < (codes1 6 21).inLen.toNat → codeOf (codes1 6 21).codes (inByte (codes1 6 21) a) ≠ []) ∧
      (codes1 6 21).inLen.toNat ≤ (codes1 6 21).inCap ∧
      (codes1 6 21).outCap < 5 + 5 * (codes1 6 21).nsym.toNat +
        ((bitStream (codes1 6 21).codes (codes1 6 21).input).length + 7) / 8) := by decide +kernel

/-- FrameWritesTheHeader. -/
theorem witness_frame : packed1.packed = true ∧ tableSymbols packed1.freq = [0x61, 0x62, 0x63] := by decide +kernel

/-- ParseReadsACanonicalContainer. -/
theorem witness_container : (load container1 (fresh 22 5)).inLen.toNat ≤ (load container1 (fresh 22 5)).inCap ∧
    (load container1 (fresh 22 5)).input = containerHeader table1 7 ++ [0x1F, 0] := by decide +kernel

/-- ParseReadsACanonicalContainer: no payload and no padding (L2.6 row 2). -/
theorem witness_empty_container : (load [0, 0, 0, 0, 0] (fresh 5 5)).input = containerHeader (table []) 0 ++ [] := by
  decide +kernel

/-- ParseAcceptsOnlyCanonicalContainers. -/
theorem witness_parse_succeeds : ∃ t, exec .parse (load container1 S0) = .next t ∧ t.err = false :=
  ⟨_, rfl, by decide +kernel⟩

/-- ParseRefusesABadPrefix, its second to fourth clauses: L2.6 rows 3, 4, 6 and 7. -/
theorem witness_prefixes : (load [0, 0, 0] S0).inLen.toNat < 4 ∧
    (4 ≤ (load [0, 0, 0, 0] S0).inLen.toNat ∧
      (load [0, 0, 0, 0] S0).inLen.toNat < 5 + (lengthPrefix (load [0, 0, 0, 0] S0)).toNat) ∧
    (5 + (lengthPrefix (load [0, 0, 0, 4, 0x61, 0, 0, 0, 1, 0] S0)).toNat ≤
        (load [0, 0, 0, 4, 0x61, 0, 0, 0, 1, 0] S0).inLen.toNat ∧
      (lengthPrefix (load [0, 0, 0, 4, 0x61, 0, 0, 0, 1, 0] S0)).toNat % 5 ≠ 0) ∧
    (5 + (lengthPrefix { load [0, 0, 5, 5] S0 with inLen := 1290 }).toNat ≤
        { load [0, 0, 5, 5] S0 with inLen := 1290 }.inLen.toNat ∧
      1280 < (lengthPrefix { load [0, 0, 5, 5] S0 with inLen := 1290 }).toNat) := by decide +kernel

/-- L2.6 row 9. -/
def duplicate : State := load [0, 0, 0, 0x0A, 0x61, 0, 0, 0, 1, 0x61, 0, 0, 0, 1, 0, 0x80] S0

/-- L2.6 row 10. -/
def zeroCount : State := load [0, 0, 0, 0x0A, 0x61, 0, 0, 0, 0, 0x62, 0, 0, 0, 1, 0, 0x80] S0

/-- ParseRefusesABadRecord, its first clause at the second record. -/
theorem witness_record_order : duplicate.prefixGood ∧ 5 * 1 < (lengthPrefix duplicate).toNat ∧
    (∀ j, j < 1 → recordGood duplicate j) ∧
    ∃ j, 1 = j + 1 ∧ (recordSymbol duplicate 1).toNat ≤ (recordSymbol duplicate j).toNat :=
  ⟨by decide +kernel, by decide +kernel,
    fun j hj => by obtain rfl : j = 0 := by omega
                   exact ⟨fun k hk => by omega, by decide +kernel⟩,
    0, rfl, by decide +kernel⟩

/-- ParseRefusesABadRecord, its second clause at the first record. -/
theorem witness_record_zero : zeroCount.prefixGood ∧ 5 * 0 < (lengthPrefix zeroCount).toNat ∧
    (∀ j, j < 0 → recordGood zeroCount j) ∧
    (∀ j, 0 = j + 1 → (recordSymbol zeroCount j).toNat < (recordSymbol zeroCount 0).toNat) ∧
    recordCount zeroCount 0 = 0 :=
  ⟨by decide +kernel, by decide +kernel, fun j hj => by omega, fun j hj => by omega, by decide +kernel⟩

/-- ParseRefusesBadPadding, its first clause at 8 (L2.6 row 11). -/
theorem witness_padding_8 (s : State) (hs : s = load [0, 0, 0, 0, 8, 0] S0) : s.prefixGood ∧
    (∀ j, 5 * j < (lengthPrefix s).toNat → recordGood s j) ∧
    (8 : Byte) = inByte s (4 + (lengthPrefix s).toNat) ∧ 7 < (8 : Byte).toNat := by
  subst hs
  have h : (lengthPrefix (load [0, 0, 0, 0, 8, 0] S0)).toNat = 0 := by decide +kernel
  exact ⟨by decide +kernel, fun j hj => by omega, by decide +kernel, by decide⟩

/-- ParseRefusesBadPadding, its second clause at 7, with one record (L2.6 row 12). -/
theorem witness_padding_empty (s : State) (hs : s = load [0, 0, 0, 5, 0x61, 0, 0, 0, 1, 7] S0) : s.prefixGood ∧
    (∀ j, 5 * j < (lengthPrefix s).toNat → recordGood s j) ∧
    (7 : Byte) = inByte s (4 + (lengthPrefix s).toNat) ∧ s.inLen.toNat = 5 + (lengthPrefix s).toNat := by
  subst hs
  have h : (lengthPrefix (load [0, 0, 0, 5, 0x61, 0, 0, 0, 1, 7] S0)).toNat = 5 := by decide +kernel
  exact ⟨by decide +kernel,
    fun j hj => by obtain rfl : j = 0 := by omega
                   exact ⟨fun k hk => by omega, by decide +kernel⟩,
    by decide +kernel, by decide +kernel⟩

/-- UnpackDecodesConcatenatedCodes, at the least OUT_CAP (L2.7 row 3). -/
theorem witness_unpack : (parsed1 22 6 7 [0x1F, 0]).capsLegal ∧ (parsed1 22 6 7 [0x1F, 0]).treeValid = true ∧
    (parsed1 22 6 7 [0x1F, 0]).parsed = true ∧ (parsed1 22 6 7 [0x1F, 0]).treeFromFreq ∧
    (∀ b ∈ aaabbc, freqOf (parsed1 22 6 7 [0x1F, 0]) b ≠ 0) ∧
    retainedBits (parsed1 22 6 7 [0x1F, 0]) =
      bitStream (codesOf (parsed1 22 6 7 [0x1F, 0]).nodes (parsed1 22 6 7 [0x1F, 0]).root) aaabbc ∧
    aaabbc.length = (parsed1 22 6 7 [0x1F, 0]).outCap := by decide +kernel

/-- UnpackRefusesAnUnfinishedWalk (L2.7 row 4): "000 11 11" and the first bit of a code. -/
theorem witness_unfinished_walk : (parsed1 22 6 0 [0x1F]).treeValid = true ∧ (parsed1 22 6 0 [0x1F]).parsed = true ∧
    (parsed1 22 6 0 [0x1F]).treeFromFreq ∧
    (∀ b ∈ [0x61, 0x61, 0x61, 0x62, 0x62], freqOf (parsed1 22 6 0 [0x1F]) b ≠ 0) ∧
    freqOf (parsed1 22 6 0 [0x1F]) 0x63 ≠ 0 ∧
    codeOf (codesOf (parsed1 22 6 0 [0x1F]).nodes (parsed1 22 6 0 [0x1F]).root) 0x63 = [true] ++ [false] ∧
    retainedBits (parsed1 22 6 0 [0x1F]) =
      bitStream (codesOf (parsed1 22 6 0 [0x1F]).nodes (parsed1 22 6 0 [0x1F]).root)
        [0x61, 0x61, 0x61, 0x62, 0x62] ++ [true] ∧
    [0x61, 0x61, 0x61, 0x62, 0x62].length ≤ (parsed1 22 6 0 [0x1F]).outCap := by decide +kernel

/-- UnpackRefusesBitsWithoutACode: one leaf and the bits "001" (L2.7 row 10), and the empty tree (row 11). -/
theorem witness_no_code : (leaf1 5 [0x20]).treeValid = true ∧ (leaf1 5 [0x20]).parsed = true ∧
    (leaf1 5 [0x20]).root ≠ NIL ∧ nodeAt (leaf1 5 [0x20]).nodes (leaf1 5 [0x20]).root = .leaf 0x41 1 ∧
    retainedBits (leaf1 5 [0x20]) = List.replicate 2 false ++ true :: [] ∧
    (empty1 [0xFF]).treeValid = true ∧ (empty1 [0xFF]).parsed = true ∧ (empty1 [0xFF]).root = NIL ∧
    retainedBits (empty1 [0xFF]) ≠ [] := by decide +kernel

/-- UnpackReportsOutputOverflow (L2.7 row 8). -/
theorem witness_output_overflow : (parsed1 22 5 7 [0x1F, 0]).capsLegal ∧ (parsed1 22 5 7 [0x1F, 0]).treeFromFreq ∧
    (∀ b ∈ aaabbc, freqOf (parsed1 22 5 7 [0x1F, 0]) b ≠ 0) ∧
    retainedBits (parsed1 22 5 7 [0x1F, 0]) =
      bitStream (codesOf (parsed1 22 5 7 [0x1F, 0]).nodes (parsed1 22 5 7 [0x1F, 0]).root) aaabbc ++ [] ∧
    aaabbc.length = (parsed1 22 5 7 [0x1F, 0]).outCap + 1 := by decide +kernel

/-- CompressMakesTheContainer and CompressDependsOnTheInputAlone, at the least OUT_CAP. -/
theorem witness_compress : (load [0x41] (fresh 5 11)).capsLegal ∧
    (load [0x41] (fresh 5 11)).inLen.toNat ≤ (load [0x41] (fresh 5 11)).inCap ∧
    compressedSize (load [0x41] (fresh 5 11)) = (load [0x41] (fresh 5 11)).outCap := by decide +kernel

/-- CompressDependsOnTheInputAlone: the same bytes in two different HUFFCOREs, both compressed. -/
theorem witness_compress_twice : (load [0x41] (fresh 6 12)).input = (load [0x41] (fresh 5 11)).input ∧
    (∃ t, exec .compress (load [0x41] (fresh 5 11)) = .next t ∧ t.err = false) ∧
    ∃ v, exec .compress (load [0x41] (fresh 6 12)) = .next v ∧ v.err = false :=
  ⟨by decide +kernel, ⟨_, rfl, by decide +kernel⟩, ⟨_, rfl, by decide +kernel⟩⟩

/-- DecompressDecodesTheContainer (L1.1). -/
theorem witness_decompress : (load container1 (fresh 22 6)).capsLegal ∧
    (load container1 (fresh 22 6)).inLen.toNat ≤ (load container1 (fresh 22 6)).inCap ∧
    (load container1 (fresh 22 6)).input = containerHeader table1 7 ++ [0x1F, 0] ∧
    freqTotal table1 ≤ 0xFFFFFFFF ∧ (∀ b ∈ aaabbc, table1[b.toNat]'b.isLt ≠ 0) ∧
    (bytesToBits [0x1F, 0]).take (8 * 2 - 7) =
      bitStream (codesOfFreq (load container1 (fresh 22 6)).nodes table1) aaabbc ∧
    aaabbc.length = (load container1 (fresh 22 6)).outCap := by decide +kernel

/-- DecompressOfCompressIsTheInput (L1.1). -/
theorem witness_round_trip : (load aaabbc S0).capsLegal ∧ (load container1 (fresh 22 6)).capsLegal ∧
    (∃ t, exec .compress (load aaabbc S0) = .next t ∧ t.err = false ∧
      (load container1 (fresh 22 6)).inLen = t.outLen ∧
      (load container1 (fresh 22 6)).input = outBytes t 0 t.outLen.toNat) ∧
    (load container1 (fresh 22 6)).inLen.toNat ≤ (load container1 (fresh 22 6)).inCap ∧
    (load aaabbc S0).inLen.toNat ≤ (load container1 (fresh 22 6)).outCap :=
  ⟨by decide +kernel, by decide +kernel, ⟨_, rfl, by decide +kernel, by decide +kernel, by decide +kernel⟩,
    by decide +kernel, by decide +kernel⟩

/-- OnlyTheListedErrorCodes, ErrorsArePrecise: a step command that ends in an error, CORE having answered. -/
theorem witness_precise_error : ∃ t, exec .parse (load [0, 0, 0] S0) = .next t ∧ t.err = true ∧
    t.errCode = .mcShortHeader := ⟨_, rfl, by decide +kernel, by decide +kernel⟩

/-- DataPhaseErrorsDrawTheOutput: each of the three codes. -/
theorem witness_data_phase :
    (∃ t, exec .pack (codes1 6 21) = .next t ∧ t.errCode = .outOverflow) ∧
    (∃ t, exec .pack (load [0x61, 0x7A] (codes1 6 22)) = .next t ∧ t.errCode = .symbolAbsent) ∧
    ∃ t, exec .unpack (empty1 [0xFF]) = .next t ∧ t.errCode = .desync :=
  ⟨⟨_, rfl, by decide +kernel⟩, ⟨_, rfl, by decide +kernel⟩, ⟨_, rfl, by decide +kernel⟩⟩

/-- MissingPrerequisitesRaiseSequence: one flag of two missing (L2.7 row 2), and none. -/
theorem witness_prerequisites :
    neededFlags .unpack &&& ~~~ statusWord { S0 with parsed := true } = 0x10#32 ∧
    neededFlags .unpack &&& ~~~ statusWord (empty1 []) = 0 := by decide +kernel

/-- The statements about an idle bus (CmdWriteIssuesTheCommand, FreqWriteInvalidates, InputWriteClearsParsed,
RegistersReadTheirFields, ReadsHaveNoSideEffect, WindowsShowTheTreeAndTheCodes). -/
theorem witness_idle : (codes1 5 5).busy = false ∧ (codes1 5 5).capsLegal ∧ 4 < (codes1 5 5).inCap ∧
    (codes1 5 5).treeValid = true ∧ 4 < (codes1 5 5).nnodes.toNat ∧ (codes1 5 5).codesValid = true := by
  decide +kernel

/-- RegistersReadTheirFields: CORE IDLE with the last of the error codes. -/
theorem witness_registers : { S0 with errCode := .desync, err := true }.busy = false ∧
    { S0 with errCode := .desync, err := true }.errCode = .desync := by decide +kernel

/-- BusyDropsWrites, BusyReadsAreDraws, BusyHostMovesKeepTheCommandsInputs: CORE BUSY, a write it drops at the end of
each range and one it does not. -/
theorem witness_busy : ((fresh 5 5).accept 9).busy = true ∧
    isDroppedWhileBusy ((fresh 5 5).accept 9) 0x400#32 4 ∧ isDroppedWhileBusy ((fresh 5 5).accept 9) 0x7FC#32 4 ∧
    isDroppedWhileBusy ((fresh 5 5).accept 9) 0x40000004#32 1 ∧
    ¬ isDroppedWhileBusy ((fresh 5 5).accept 9) 0x800#32 4 ∧
    ¬ isDroppedWhileBusy ((fresh 5 5).accept 9) 0x40000005#32 1 := by
  simp [isDroppedWhileBusy, fresh, State.accept, State.resetWith]

/-- ReadOnlyOffsetsIgnoreWrites: offsets beside the FREQ range, and the first and the last reserved offset. -/
theorem witness_offsets : (∀ off ∈ [0x3FC, 0x800, 0x04C, 0xFFFC], off < 0x10000 ∧ off % 4 = 0 ∧ off ≠ 0x004 ∧
    off ≠ 0x014 ∧ off ≠ 0x03C ∧ off ≠ 0x040 ∧ (off < 0x400 ∨ 0x800 ≤ off)) ∧ S0.busy = false := by decide +kernel

/-- InterruptFollowsDoneAndEnable: DONE set, and each of the two moves that may clear it; an even and an odd word. -/
theorem witness_done : (after .clear S0).irqDone = true ∧ (∃ t, step (after .clear S0) = .next t) ∧
    { after .clear S0 with script := [.write 0x040#32 4 3] }.script = .write 0x040#32 4 3 :: [] ∧
    (3 : Word).getLsbD 0 = true ∧ (2 : Word).getLsbD 0 = false :=
  ⟨by decide +kernel, ⟨_, rfl⟩, rfl, by decide, by decide⟩

/-- IllegalCommandsReportTheWord: a word of each of the three kinds. -/
theorem witness_illegal_words : (0x00000100#32).toNat / 256 ≠ 0 ∧ (0x00000000#32).toNat % 256 = 0 ∧
    0x0B ≤ (0x0000000B#32).toNat % 256 := by decide

/-- SlverrExactlyAsListed: each kind at the edge of its range, and the last legal address of each window. -/
theorem witness_slverr : isBadAccess (fresh 5 5) 0x10000#32 4 ∧ isBadAccess (fresh 5 5) 0x40000005#32 1 ∧
    isBadAccess (fresh 5 5) 0x80000005#32 1 ∧ isBadAccess (fresh 5 5) 0xC0000000#32 1 ∧
    isBadAccess (fresh 5 5) 0x2#32 4 ∧ isBadAccess (fresh 5 5) 0x8#32 2 ∧ isBadAccess (fresh 5 5) 0x40000000#32 4 ∧
    ¬ isBadAccess (fresh 5 5) 0xFFFC#32 4 ∧ ¬ isBadAccess (fresh 5 5) 0x40000004#32 1 ∧
    ¬ isBadAccess (fresh 5 5) 0x80000004#32 1 := by
  simp [isBadAccess, isUnmapped, fresh, State.resetWith]

/-- ResetLeavesTheStatedValues. -/
theorem witness_reset_move : { S0.accept 9 with script := [.reset] }.script = .reset :: [] := by rfl

/-- EveryStepKeepsTheInvariants: reset meets the invariants, and so does a state with every flag but PARSED set. -/
theorem witness_invariants : packed1.Inv where
  outLenFits := by decide +kernel
  errShown := by decide +kernel
  codesNeedTree := fun _ => by decide +kernel
  codesOfTree := fun _ => by rfl
  packedNeedsCodes := fun _ => by decide +kernel
  packedHeaderFits := fun _ => by decide +kernel
  packedPad := fun _ => by decide +kernel
  treeOfFreq := fun _ => by decide +kernel
  parsedNotPacked := fun h => by exact absurd h (by decide +kernel)
  parsedFromInput := fun h => by exact absurd h (by decide +kernel)

/-- EveryStepKeepsTheInvariants: a state with PARSED set meets its clause about the container in IN_MEM. -/
theorem witness_parsed_invariant : (parsed1 22 6 7 [0x1F, 0]).parsed = true ∧
    ∃ c, parseContainer (inByte (parsed1 22 6 7 [0x1F, 0])) 22 = .ok c ∧ c.payloadOff = 20 ∧ c.payloadLen = 2 ∧
      c.pad = 7 := ⟨by decide +kernel, _, rfl, by decide +kernel, by decide +kernel, by decide +kernel⟩

/-- EveryStepKeepsTheMemoriesCanonical, CapacitiesAreConstant, ResultRegistersHaveTheirWriters: memories with bytes
listed up to the last address, and a next state. -/
theorem witness_memory : (codes1 6 22).memoryWf ∧ (codes1 6 22).inMemFits ∧ (codes1 6 22).outMemFits ∧
    (codes1 6 22).capsLegal ∧ ∃ t, step (codes1 6 22) = .next t :=
  ⟨by decide +kernel, by decide +kernel, by decide +kernel, by decide +kernel, _, rfl⟩

/-- EveryStepKeepsTheMemoriesCanonical: bytes of OUT_MEM listed, in a state that meets the invariants
(witness_invariants). -/
theorem witness_out_memory : packed1.outMemFits ∧ packed1.outMem ≠ [] := by decide +kernel

/-- ResultRegistersHaveTheirWriters: a command that writes none of them, at CORE's turn. -/
theorem witness_writers : (∀ rest, (S0.accept 2).script ≠ .reset :: rest) ∧ turnOf (S0.accept 2) = .core [] ∧
    decode (S0.accept 2).cmd ∉ [Instr.buildTree, Instr.compress, Instr.decompress, Instr.clear] ∧
    decode (S0.accept 2).cmd ∉ [Instr.parse, Instr.decompress, Instr.clear] :=
  ⟨by intro rest h; exact absurd h (by simp [S0, fresh, State.accept, State.resetWith]),
    by decide +kernel, by decide +kernel, by decide +kernel⟩

end Sys2Proof.Tests
end

section
/-! PROOFS. The body of every command, and once for each body all the ways it can end (46_control.md rule R222). -/

namespace Sys2Proof.Machine

/-- The state a body ends in, error or not. -/
def Result.state : Result → State
  | .done s => s
  | .raised s _ _ => s

@[simp] theorem Result.state_done (s : State) : (Result.done s).state = s := rfl

@[simp] theorem Result.state_raised (s : State) (e : ErrCode) (info : Nat) : (Result.raised s e info).state = s := rfl

/-- Completing a body changes its state in the completion fields only. -/
theorem complete_eq_finish (r : Result) : ∃ e info b, complete r = r.state.finish e info b := by
  cases r with
  | done s => exact ⟨_, _, _, rfl⟩
  | raised s e info => exact ⟨_, _, _, rfl⟩

/-- The body of a command (46_control.md R222). -/
def bodyOf : Instr → State → Result
  | .clear => clearBody
  | .freqScan => freqScanBody
  | .buildTree => buildTreeBody
  | .genCodes => genCodesBody
  | .pack => packBody
  | .frame => frameBody
  | .parse => parseBody
  | .unpack => unpackBody
  | .compress => compressBody
  | .decompress => decompressBody
  | .illegalOpcode00 => illegalBody
  | .illegalOpcode0BFF _ => illegalBody
  | .illegalRsvd _ _ => illegalBody

/-- The CORE step of a command is the completion of its body. -/
theorem exec_eq_complete (i : Instr) (s : State) : exec i s = .next (complete (bodyOf i s)) := by
  cases i <;> rfl

/-- The step commands a command runs: a composite's steps (46_control.md R224, R225), else the command itself. -/
def stepsOf : Instr → List Instr
  | .compress => [.freqScan, .buildTree, .genCodes, .pack, .frame]
  | .decompress => [.parse, .buildTree, .unpack]
  | i => [i]

/-- A composite is no step of any command. -/
theorem not_composite_of_mem_stepsOf {i j : Instr} (h : j ∈ stepsOf i) : j ≠ .compress ∧ j ≠ .decompress := by
  revert j
  cases i <;> simp [stepsOf]

/-- A command that is no composite is its own only step. -/
theorem stepsOf_step {i : Instr} (hc : i ≠ .compress) (hd : i ≠ .decompress) : stepsOf i = [i] := by
  cases i <;> simp_all [stepsOf]

/-- A composite runs the bodies of its steps. -/
theorem bodyOf_composite {i : Instr} (h : i = .compress ∨ i = .decompress) (s : State) :
    bodyOf i s = runSteps ((stepsOf i).map bodyOf) s := by
  rcases h with rfl | rfl <;> rfl

/-- A property that every step of a command keeps, and that setting OUT_LEN to 0 keeps, is kept by the command. -/
theorem bodyOf_keeps {P : State → Prop} {i : Instr} {s : State} (hout : ∀ u, P u → P { u with outLen := 0 })
    (hstep : ∀ j ∈ stepsOf i, j ≠ .compress → j ≠ .decompress → ∀ u, P u → P (bodyOf j u).state) (hs : P s) :
    P (bodyOf i s).state := by
  by_cases hi : i = .compress ∨ i = .decompress
  · rw [bodyOf_composite hi]
    have hkeeps := runSteps_keeps (bodies := (stepsOf i).map bodyOf) (fun body hbody u hu => ?_) hout hs
    · cases hr : runSteps ((stepsOf i).map bodyOf) s with
      | done t => exact hkeeps.1 t hr
      | raised t e info => exact hkeeps.2 t e info hr
    · obtain ⟨j, hj, rfl⟩ := List.mem_map.1 hbody
      obtain ⟨hc, hd⟩ := not_composite_of_mem_stepsOf hj
      have hu' := hstep j hj hc hd u hu
      exact ⟨fun v hv => by simpa [hv] using hu', fun v e info hv => by simpa [hv] using hu'⟩
  · obtain ⟨hc, hd⟩ := not_or.1 hi
    exact hstep i (by simp [stepsOf_step hc hd]) hc hd s hs

/-- The error a composite ends in was raised by one of its steps. -/
theorem runSteps_raised_by {bodies : List (State → Result)} {s t : State} {e : ErrCode} {info : Nat}
    (h : runSteps bodies s = .raised t e info) : ∃ body ∈ bodies, ∃ u v, body u = .raised v e info := by
  induction bodies generalizing s with
  | nil => simp at h
  | cons body rest ih =>
    cases hr : body s with
    | done s' =>
      rw [runSteps_done rest hr] at h
      obtain ⟨b, hb, huv⟩ := ih h
      exact ⟨b, List.mem_cons_of_mem _ hb, huv⟩
    | raised s' e' info' =>
      rw [runSteps_raised rest hr, Result.raised.injEq] at h
      obtain ⟨-, rfl, rfl⟩ := h
      exact ⟨body, List.mem_cons_self .., s, s', hr⟩

/-- The error a command ends in was raised by one of its steps. -/
theorem bodyOf_raised_by {i : Instr} {s t : State} {e : ErrCode} {info : Nat} (h : bodyOf i s = .raised t e info) :
    ∃ j ∈ stepsOf i, ∃ u v, bodyOf j u = .raised v e info := by
  by_cases hi : i = .compress ∨ i = .decompress
  · rw [bodyOf_composite hi] at h
    obtain ⟨body, hbody, huv⟩ := runSteps_raised_by h
    obtain ⟨j, hj, rfl⟩ := List.mem_map.1 hbody
    exact ⟨j, hj, huv⟩
  · obtain ⟨hc, hd⟩ := not_or.1 hi
    exact ⟨i, by simp [stepsOf_step hc hd], s, t, h⟩

/-! All the ways each step command can end. -/

/-- FREQ_SCAN (40_frequency.md R140). -/
theorem freqScanBody_cases (s : State) :
    (s.inCap < s.inLen.toNat ∧ freqScanBody s = .raised s .inLenRange s.inLen.toNat) ∨
    (s.inLen.toNat ≤ s.inCap ∧ freqScanBody s = .done { s with freq := countBytes s.input }.invalidate) := by
  unfold freqScanBody
  split
  · exact .inl ⟨‹_›, rfl⟩
  · exact .inr ⟨by omega, rfl⟩

/-- BUILD_TREE (41_tree_builder.md R150). -/
theorem buildTreeBody_cases (s : State) :
    (∃ sym, overflowSymbol s.freq.toList 0 0 = some sym ∧ buildTreeBody s = .raised s .weightOverflow sym) ∨
    (overflowSymbol s.freq.toList 0 0 = none ∧ buildTreeBody s = .done { s with
      nodes := storeNodes s.nodes (buildTree s.freq).nodes
      nsym := BitVec.ofNat 9 (buildTree s.freq).nsym
      nnodes := BitVec.ofNat 9 (buildTree s.freq).nodes.length
      root := (buildTree s.freq).root
      treeValid := true
      codesValid := false
      packed := false }) := by
  unfold buildTreeBody
  cases h : overflowSymbol s.freq.toList 0 0 with
  | some sym => exact .inl ⟨sym, rfl, rfl⟩
  | none => exact .inr ⟨rfl, rfl⟩

/-- GEN_CODES (42_code_table.md R170). -/
theorem genCodesBody_cases (s : State) :
    (s.treeValid = false ∧ genCodesBody s = .raised s .sequence 0x10) ∨
    (s.treeValid = true ∧
      genCodesBody s = .done { s with codes := codesOf s.nodes s.root, codesValid := true, packed := false }) := by
  simp only [genCodesBody, missingFlags_treeValid]
  cases h : s.treeValid
  · exact .inl ⟨rfl, rfl⟩
  · exact .inr ⟨rfl, rfl⟩

/-- PACK (43_bit_packer.md R180). -/
theorem packBody_cases (s : State) :
    (s.codesValid = false ∧ packBody s = .raised s .sequence 0x20) ∨
    (s.codesValid = true ∧ s.inCap < s.inLen.toNat ∧ packBody s = .raised s .inLenRange s.inLen.toNat) ∨
    (s.codesValid = true ∧ s.inLen.toNat ≤ s.inCap ∧
      ∃ a, firstAbsent s.codes s.input 0 = some a ∧ packBody s = .raised s.dataPhaseError .symbolAbsent a) ∨
    (s.codesValid = true ∧ s.inLen.toNat ≤ s.inCap ∧ firstAbsent s.codes s.input 0 = none ∧
      ∃ bits payload, bits = bitStream s.codes s.input ∧ payload = bitsToBytes (padded bits) ∧
        ((s.outCap < headerLen s.nsym.toNat + payload.length ∧ packBody s = .raised s.dataPhaseError .outOverflow
            (min (headerLen s.nsym.toNat + payload.length) 0xFFFFFFFF)) ∨
          (headerLen s.nsym.toNat + payload.length ≤ s.outCap ∧ packBody s = .done { s with
            outMem := Memory.writeBytes s.outMem (headerLen s.nsym.toNat) payload
            outLen := BitVec.ofNat 32 (headerLen s.nsym.toNat + payload.length)
            pad := BitVec.ofNat 3 (padCount bits.length)
            bitlen := BitVec.ofNat 64 bits.length
            packed := true
            parsed := false }))) := by
  cases hc : s.codesValid with
  | false => exact .inl ⟨rfl, by simp [packBody, missingFlags_codesValid, hc]⟩
  | true =>
    refine .inr ?_
    by_cases hl : s.inCap < s.inLen.toNat
    · exact .inl ⟨rfl, hl, by simp [packBody, missingFlags_codesValid, hc, hl]⟩
    refine .inr ?_
    have hl' : s.inLen.toNat ≤ s.inCap := Nat.le_of_not_lt hl
    cases ha : firstAbsent s.codes s.input 0 with
    | some a =>
      rw [State.input] at ha
      exact .inl ⟨rfl, hl', a, rfl, by simp [packBody, missingFlags_codesValid, hc, hl, ha]⟩
    | none =>
      refine .inr ⟨rfl, hl', rfl, _, _, rfl, rfl, ?_⟩
      rw [State.input] at ha ⊢
      by_cases ho : s.outCap < headerLen s.nsym.toNat +
          (bitsToBytes (padded (bitStream s.codes (inBytes s 0 s.inLen.toNat)))).length
      · exact .inl ⟨ho, by simp [packBody, missingFlags_codesValid, hc, hl, ha, ho]⟩
      · exact .inr ⟨Nat.le_of_not_lt ho, by simp [packBody, missingFlags_codesValid, hc, hl, ha, ho]⟩

/-- FRAME (45_container.md R200). -/
theorem frameBody_cases (s : State) :
    (s.packed = false ∧ frameBody s = .raised s .sequence 0x40) ∨
    (s.packed = true ∧
      frameBody s = .done { s with outMem := Memory.writeBytes s.outMem 0 (containerHeader s.freq s.pad) }) := by
  simp only [frameBody, missingFlags_packed]
  cases h : s.packed
  · exact .inl ⟨rfl, rfl⟩
  · exact .inr ⟨rfl, rfl⟩

/-- PARSE (45_container.md R202). -/
theorem parseBody_cases (s : State) :
    (s.inCap < s.inLen.toNat ∧ parseBody s = .raised s .inLenRange s.inLen.toNat) ∨
    (s.inLen.toNat ≤ s.inCap ∧ ∃ e, parseContainer (inByte s) s.inLen.toNat = .error e ∧
      parseBody s = .raised { s with parsed := false } e.1 e.2) ∨
    (s.inLen.toNat ≤ s.inCap ∧ ∃ c, parseContainer (inByte s) s.inLen.toNat = .ok c ∧ parseBody s = .done { s with
      freq := c.freq
      pad := c.pad.setWidth 3
      payloadOff := BitVec.ofNat 32 c.payloadOff
      payloadLen := BitVec.ofNat 32 c.payloadLen
      parsed := true
      treeValid := false
      codesValid := false
      packed := false }) := by
  unfold parseBody
  by_cases hl : s.inCap < s.inLen.toNat
  · exact .inl ⟨hl, if_pos hl⟩
  rw [if_neg hl]
  refine .inr ?_
  cases h : parseContainer (inByte s) s.inLen.toNat with
  | error e => exact .inl ⟨Nat.le_of_not_lt hl, e, rfl, rfl⟩
  | ok c => exact .inr ⟨Nat.le_of_not_lt hl, c, rfl, rfl⟩

/-- UNPACK (44_bit_unpacker.md R190). -/
theorem unpackBody_cases (s : State) :
    ((s.treeValid = false ∨ s.parsed = false) ∧ ∃ mask, unpackBody s = .raised s .sequence mask) ∨
    (s.treeValid = true ∧ s.parsed = true ∧ ∃ e, decodeBits s.nodes s.root s.outCap (retainedBits s) = .error e ∧
      unpackBody s = .raised s.dataPhaseError e.1 e.2) ∨
    (s.treeValid = true ∧ s.parsed = true ∧ ∃ out, decodeBits s.nodes s.root s.outCap (retainedBits s) = .ok out ∧
      unpackBody s = .done { s with
        outMem := Memory.writeBytes s.outMem 0 out
        outLen := BitVec.ofNat 32 out.length
        bitlen := BitVec.ofNat 64 (retainedBits s).length
        packed := false }) := by
  simp only [unpackBody, missingFlags_treeValid_parsed]
  cases ht : s.treeValid <;> cases hp : s.parsed
  case true.true =>
    refine .inr ?_
    cases h : decodeBits s.nodes s.root s.outCap (retainedBits s) with
    | error e => exact .inl ⟨rfl, rfl, e, rfl, rfl⟩
    | ok out => exact .inr ⟨rfl, rfl, out, rfl, rfl⟩
  all_goals exact .inl ⟨by simp, _, rfl⟩

end Sys2Proof.Machine
end

section
/-! PROOFS. What a decoded payload, a parsed container and a built tree are, as far as the invariants of
10_state.md rule R56 speak of them. -/

namespace Sys2Proof.Machine

/-! UNPACK: at most OUT_CAP bytes, or one of two errors (44_bit_unpacker.md R190 to R196). -/

/-- A walk ends with at most OUT_CAP bytes, in OUT_OVERFLOW or in DESYNC. -/
inductive WalkEnds (outCap : Nat) : Except (ErrCode × Nat) (List Byte) → Prop
  | ok {out : List Byte} (h : out.length ≤ outCap) : WalkEnds outCap (.ok out)
  | overflow (n : Nat) : WalkEnds outCap (.error (.outOverflow, n))
  | desync (j : Nat) : WalkEnds outCap (.error (.desync, j))

/-- An emission fits one more byte below OUT_CAP, or overflows at it. -/
theorem emit_cases (outCap n : Nat) (v : Byte) (out : List Byte) :
    (n = outCap ∧ emit outCap n v out = .error (.outOverflow, n + 1)) ∨
    (n ≠ outCap ∧ emit outCap n v out = .ok (v :: out)) := by
  unfold emit
  by_cases h : n = outCap
  · exact .inl ⟨h, if_pos h⟩
  · exact .inr ⟨h, if_neg h⟩

theorem singleLeafWalk_ends (sym : Byte) {outCap : Nat} (bits : BitString) {out : List Byte}
    (h : out.length ≤ outCap) : WalkEnds outCap (singleLeafWalk sym outCap bits out.length out) := by
  induction bits generalizing out with
  | nil => exact .ok h
  | cons bit bits ih =>
    cases bit with
    | true => exact .desync _
    | false =>
      rcases emit_cases outCap out.length sym out with ⟨-, he⟩ | ⟨hn, he⟩
      · simpa only [singleLeafWalk, he] using .overflow _
      · simp only [singleLeafWalk, he]
        exact ih (out := sym :: out) (by simp only [List.length_cons]; omega)

theorem treeWalk_ends (nodes : Vector Node 511) (root : NodeIx) {outCap : Nat} (bits : BitString) (cur : NodeIx)
    (j : Nat) {out : List Byte} (h : out.length ≤ outCap) :
    WalkEnds outCap (treeWalk nodes root outCap bits cur j out.length out) := by
  induction bits generalizing cur j out with
  | nil =>
    unfold treeWalk
    split
    · exact .ok h
    · exact .desync _
  | cons bit bits ih =>
    unfold treeWalk
    dsimp only
    split
    · exact ih _ _ h
    · rename_i sym _ _
      rcases emit_cases outCap out.length sym out with ⟨-, he⟩ | ⟨hn, he⟩
      · simpa only [he] using .overflow _
      · simp only [he]
        exact ih root (j + 1) (out := sym :: out) (by simp only [List.length_cons]; omega)

theorem decodeBits_ends (nodes : Vector Node 511) (root : NodeIx) (outCap : Nat) (bits : BitString) :
    WalkEnds outCap (decodeBits nodes root outCap bits) := by
  have hreverse : ∀ r, WalkEnds outCap r →
      WalkEnds outCap (match r with | .error e => .error e | .ok out => .ok out.reverse) := by
    rintro _ (h | n | j)
    · exact .ok (by simpa using h)
    · exact .overflow n
    · exact .desync j
  apply hreverse
  split
  · split
    · exact .ok (Nat.zero_le _)
    · exact .desync _
  · split
    · exact singleLeafWalk_ends _ bits (out := []) (Nat.zero_le _)
    · exact treeWalk_ends nodes root bits root 0 (out := []) (Nat.zero_le _)

/-- The bytes a payload decodes to fit OUT_CAP. -/
theorem decodeBits_length_le {nodes : Vector Node 511} {root : NodeIx} {outCap : Nat} {bits : BitString}
    {out : List Byte} (h : decodeBits nodes root outCap bits = .ok out) : out.length ≤ outCap := by
  have hends := decodeBits_ends nodes root outCap bits
  rw [h] at hends
  cases hends
  assumption

/-- A payload that does not decode ends in OUT_OVERFLOW or DESYNC. -/
theorem decodeBits_error {nodes : Vector Node 511} {root : NodeIx} {outCap : Nat} {bits : BitString}
    {e : ErrCode × Nat} (h : decodeBits nodes root outCap bits = .error e) :
    e.1 = .outOverflow ∨ e.1 = .desync := by
  have hends := decodeBits_ends nodes root outCap bits
  rw [h] at hends
  cases hends
  · exact .inl rfl
  · exact .inr rfl

/-! PARSE: the errors it raises (45_container.md R203). -/

theorem parseRecords_error {read : Nat → Byte} {k o : Nat} {prev : Int} {f : Vector Word 256} {e : ErrCode × Nat}
    (h : parseRecords read k o prev f = .error e) : e.1 = .mcTableOrder ∨ e.1 = .mcTableZero := by
  induction k generalizing o prev f with
  | zero => cases h
  | succ k ih =>
    unfold parseRecords at h
    dsimp only at h
    split at h
    · cases h
      exact .inl rfl
    · split at h
      · cases h
        exact .inr rfl
      · exact ih h

/-- A container that is refused is refused with one of the seven MC codes. -/
theorem parseContainer_error {read : Nat → Byte} {nb : Nat} {e : ErrCode × Nat}
    (h : parseContainer read nb = .error e) :
    e.1 ∈ [ErrCode.mcShortHeader, .mcLength, .mcTableFormat, .mcTableOrder, .mcTableZero, .mcPadding, .mcPadEmpty] := by
  unfold parseContainer at h
  dsimp only at h
  split at h
  · cases h
    simp
  split at h
  · cases h
    simp
  split at h
  · cases h
    simp
  split at h
  · rename_i e' he
    cases h
    rcases parseRecords_error he with h | h <;> simp [h]
  split at h
  · cases h
    simp
  split at h
  · cases h
    simp
  · cases h

/-! BUILD_TREE: how many nodes it makes, and the tree the store then holds (41_tree_builder.md R150 to R157). -/

/-- The running sum of an overflow-free table stays within 32 bits (41_tree_builder.md R151). -/
theorem sum_le_of_overflowSymbol_none {fs : List Word} {sym total : Nat} (ht : total ≤ 0xFFFFFFFF)
    (h : overflowSymbol fs sym total = none) : total + (fs.map BitVec.toNat).sum ≤ 0xFFFFFFFF := by
  induction fs generalizing sym total with
  | nil => simpa using ht
  | cons f fs ih =>
    unfold overflowSymbol at h
    split at h
    · cases h
    · have := ih (by omega) h
      simp only [List.map_cons, List.sum_cons]
      omega

theorem freqTotal_le_of_no_overflow {freq : Vector Word 256} (h : overflowSymbol freq.toList 0 0 = none) :
    freqTotal freq ≤ 0xFFFFFFFF := by
  have hsum := sum_le_of_overflowSymbol_none (Nat.zero_le _) h
  rwa [Nat.zero_add, ← List.take_of_length_le (l := freq.toList) (i := 256) (by simp)] at hsum

theorem leavesOf_length_le (fs : List Word) (sym : Nat) : (leavesOf fs sym).length ≤ fs.length := by
  induction fs generalizing sym with
  | nil => exact Nat.le_refl _
  | cons f fs ih =>
    have := ih (sym + 1)
    unfold leavesOf
    split <;> simp only [List.length_cons] <;> omega

/-- A queue gives its least member unless it is empty, and is then one member shorter. -/
theorem extractLeast_cases (q : List QueueEntry) :
    (q = [] ∧ extractLeast q = none) ∨
    ∃ x rest, extractLeast q = some (x, rest) ∧ q.length = rest.length + 1 := by
  induction q with
  | nil => exact .inl ⟨rfl, rfl⟩
  | cons x xs ih =>
    refine .inr ?_
    rcases ih with ⟨rfl, he⟩ | ⟨y, rest, he, hlen⟩
    · exact ⟨x, [], rfl, rfl⟩
    · by_cases hb : y.before x
      · exact ⟨y, x :: rest, by simp [extractLeast, he, hb], by simp [hlen]⟩
      · exact ⟨x, y :: rest, by simp [extractLeast, he, hb], by simp [hlen]⟩

/-- Every merge adds a node and takes one member off the queue, down to the last one (41_tree_builder.md R155). -/
theorem mergeLoop_length (fuel : Nat) (q : List QueueEntry) (nodes : List Node) :
    (mergeLoop fuel q nodes).1.length = nodes.length + min fuel (q.length - 1) ∧
    (mergeLoop fuel q nodes).2.length = q.length - min fuel (q.length - 1) := by
  induction fuel generalizing q nodes with
  | zero => simp [mergeLoop]
  | succ fuel ih =>
    unfold mergeLoop
    rcases extractLeast_cases q with ⟨rfl, he⟩ | ⟨a, q1, he, hq⟩
    · simp [he]
    rcases extractLeast_cases q1 with ⟨rfl, he1⟩ | ⟨b, q2, he1, hq1⟩
    · simp only [he, he1]
      simp [hq]
    · simp only [he, he1]
      obtain ⟨hnodes, hqueue⟩ := ih (⟨a.w + b.w, nodes.length⟩ :: q2)
        (nodes ++ [.internal (a.w + b.w) (BitVec.ofNat 9 a.ix) (BitVec.ofNat 9 b.ix)])
      rw [hnodes, hqueue]
      simp only [List.length_append, List.length_cons, List.length_nil]
      omega

/-- K leaves make a tree of 2K - 1 nodes, none for K = 0 (41_tree_builder.md R155). -/
theorem buildTree_nodes_length (freq : Vector Word 256) :
    (buildTree freq).nodes.length = 2 * (buildTree freq).nsym - 1 := by
  have hlen := (mergeLoop_length (leavesOf freq.toList 0).length
    ((leavesOf freq.toList 0).zipIdx.map fun x => ⟨nodeWeight x.1, x.2⟩) (leavesOf freq.toList 0)).1
  rw [List.length_map, List.length_zipIdx] at hlen
  simp only [buildTree, hlen]
  omega

theorem buildTree_nsym_le (freq : Vector Word 256) : (buildTree freq).nsym ≤ 256 := by
  calc (leavesOf freq.toList 0).length
    _ ≤ freq.toList.length := leavesOf_length_le freq.toList 0
    _ = 256 := by simp

theorem buildTree_nodes_length_le (freq : Vector Word 256) : (buildTree freq).nodes.length ≤ 511 := by
  have := buildTree_nsym_le freq
  rw [buildTree_nodes_length]
  omega

/-- The store begins with the nodes written to it. -/
theorem storeNodes_take {old : Vector Node 511} {new : List Node} (h : new.length ≤ 511) :
    (storeNodes old new).toList.take new.length = new := by
  show ((new ++ old.toList.drop new.length).take 511).take new.length = new
  rw [List.take_take, Nat.min_eq_left h, List.take_left]

end Sys2Proof.Machine
end

section
/-! PROOFS. What a HOST move can do to the state (20_memory.md rules R75 to R84), and what a step can be. -/

namespace Sys2Proof.Machine

/-- All a bus transaction can do to the state (20_memory.md R79 to R84; 10_state.md R25, R36, R43, R45, R55). -/
inductive BusEffect (s : State) : State → Prop
  | kept : BusEffect s s
  | drawn (hb : s.busy = true) : BusEffect s s.drawn
  | dropped (hb : s.busy = true) : BusEffect s s.dropWrite
  | accepted (hb : s.busy = false) (v : Word) : BusEffect s (s.accept v)
  | inLen (hb : s.busy = false) (v : Word) : BusEffect s { s with inLen := v }
  | freq (hb : s.busy = false) (sym : Byte) (v : Word) :
      BusEffect s { s with freq := s.freq.set sym.toNat v sym.isLt }.invalidate
  | irqEn (ie : Bool) : BusEffect s { s with irqEn := ie }
  | irqDone : BusEffect s { s with irqDone := false }
  | inByte (hb : s.busy = false) {a : Nat} (ha : a < s.inCap) (v : Byte) :
      BusEffect s { s with inMem := Memory.set s.inMem a v, parsed := false }

theorem readReg_effect (s : State) (r : Reg) : BusEffect s (readReg s r).1 := by
  rcases readReg_cases s r with ⟨h, -⟩ | ⟨h, hb, -⟩ <;> rw [h]
  · exact .kept
  · exact .drawn hb

theorem readWindow_effect (s : State) (v : Byte) : BusEffect s (readWindow s v).1 := by
  rcases readWindow_cases s v with ⟨h, -⟩ | ⟨h, hb⟩ <;> rw [h]
  · exact .kept
  · exact .drawn hb

theorem busRead_effect (s : State) (addr : Word) (size : Nat) : BusEffect s (busRead s addr size).1 := by
  unfold busRead
  split
  · split
    · exact readReg_effect s _
    · exact .kept
  · split
    · exact readWindow_effect s _
    · exact .kept
  · split
    · exact readWindow_effect s _
    · exact .kept
  · exact .kept

/-- The registers a host can write (10_state.md R54). -/
def isWritable : Reg → Bool
  | .cmd | .inLen | .freq _ | .irqEn | .irqStatus => true
  | _ => false

/-- A write to any other register is ignored (10_state.md R53, R54). -/
theorem writeReg_ignored {r : Reg} (h : isWritable r = false) (s : State) (v : Word) : writeReg s r v = s := by
  cases r <;> simp_all [isWritable, writeReg]

/-- A write that BUSY drops is dropped, or does while IDLE what it is for (20_memory.md R80). -/
theorem dropWrite_effect {s t : State} (h : s.busy = false → BusEffect s t) :
    BusEffect s (if s.busy then s.dropWrite else t) := by
  cases hb : s.busy
  · exact h hb
  · exact .dropped hb

theorem writeReg_effect (s : State) (r : Reg) (v : Word) : BusEffect s (writeReg s r v) := by
  cases r with
  | cmd => exact dropWrite_effect fun hb => .accepted hb v
  | inLen => exact dropWrite_effect fun hb => .inLen hb v
  | freq sym => exact dropWrite_effect fun hb => .freq hb sym v
  | irqEn => exact .irqEn _
  | irqStatus =>
    show BusEffect s (if v.getLsbD 0 then { s with irqDone := false } else s)
    split
    · exact .irqDone
    · exact .kept
  | _ => exact .kept

theorem busWrite_effect (s : State) (addr : Word) (size : Nat) (data : Word) :
    BusEffect s (busWrite s addr size data).1 := by
  unfold busWrite
  split
  · split
    · exact writeReg_effect s _ data
    · exact .kept
  · rename_i a ha
    split
    · exact dropWrite_effect fun hb => .inByte hb (targetOf_inWindow_lt ha) _
    · exact .kept
  · exact .kept
  · exact .kept

/-- A HOST move but the reset is one bus transaction, or none, with the script moved on and its reply handed over. -/
theorem hostStep_effect (s : State) {m : HostMove} (rest : List HostMove) (hm : m ≠ .reset) :
    ∃ u, BusEffect s u ∧ ∃ script replies, hostStep s m rest = { u with script := script, replies := replies } := by
  cases m with
  | read addr size => exact ⟨_, busRead_effect s addr size, _, _, rfl⟩
  | write addr size data => exact ⟨_, busWrite_effect s addr size data, _, _, rfl⟩
  | wait => exact ⟨_, busRead_effect s statusAddr 4, _, _, rfl⟩
  | dump => exact ⟨_, busRead_effect s outLenAddr 4, _, _, rfl⟩
  | core => exact ⟨s, .kept, _, _, rfl⟩
  | reset => exact absurd rfl hm

/-- A step is CORE's, a HOST move, or nothing. -/
theorem step_cases {s t : State} (h : step s = .next t) :
    (∃ rest, turnOf s = .core rest ∧ s.busy = true ∧
      t = complete (bodyOf (decode s.cmd) { s with script := rest })) ∨
    (∃ m rest, s.script = m :: rest ∧ t = hostStep s m rest) ∨
    t = s := by
  unfold step at h
  rcases turnOf_cases s with ⟨rest, hturn, hb, -⟩ | ⟨m, rest, hturn, hscript⟩ | ⟨hturn, -⟩ <;>
    simp only [hturn, exec_eq_complete, Host.Outcome.next.injEq] at h <;> subst h
  · exact .inl ⟨rest, hturn, hb, rfl⟩
  · exact .inr (.inl ⟨m, rest, hscript, rfl⟩)
  · exact .inr (.inr rfl)

/-- A property of the state that looks neither at the script nor at the replies, and that every body of a command, the
completion, every bus transaction and the reset keep, is kept by every step. -/
theorem step_keeps {P : State → Prop} {s t : State}
    (hhost : ∀ u script replies, P u → P { u with script := script, replies := replies })
    (hcore : ∀ i u, P u → P (complete (bodyOf i u)))
    (hbus : ∀ u v, P u → BusEffect u v → P v)
    (hreset : ∀ u rest, P u → P (u.hardReset rest))
    (hs : P s) (h : step s = .next t) : P t := by
  rcases step_cases h with ⟨rest, -, -, rfl⟩ | ⟨m, rest, -, rfl⟩ | rfl
  · exact hcore _ _ (hhost s rest s.replies hs)
  · by_cases hm : m = .reset
    · subst hm
      exact hreset s rest hs
    · obtain ⟨u, hu, script, replies, heq⟩ := hostStep_effect s rest hm
      rw [heq]
      exact hhost u script replies (hbus s u hs hu)
  · exact hs

end Sys2Proof.Machine
end

section
/-! PROOFS. What every step keeps: the host's side, and the invariants of 10_state.md rule R56. -/

namespace Sys2Proof.Machine

/-! What the commands leave alone. -/

/-- What the step commands leave alone: all of them the host's side (10_state.md R25, R36, R40, R43), all but BUILD_TREE
and CLEAR the node store and its registers (R39), all but PARSE and CLEAR the payload registers (R41). -/
theorem stepBody_frame {j : Instr} (hc : j ≠ .compress) (hd : j ≠ .decompress) (u : State) :
    KeepsHostSide u (bodyOf j u).state ∧
    (j ∉ [Instr.buildTree, .clear] → KeepsTree u (bodyOf j u).state) ∧
    (j ∉ [Instr.parse, .clear] → KeepsPayloadRegs u (bodyOf j u).state) := by
  simp only [KeepsHostSide, KeepsTree, KeepsPayloadRegs]
  cases j with
  | clear => simp [bodyOf, clearBody]
  | freqScan => rcases freqScanBody_cases u with ⟨-, h⟩ | ⟨-, h⟩ <;> simp [bodyOf, h]
  | buildTree => rcases buildTreeBody_cases u with ⟨_, -, h⟩ | ⟨-, h⟩ <;> simp [bodyOf, h]
  | genCodes => rcases genCodesBody_cases u with ⟨-, h⟩ | ⟨-, h⟩ <;> simp [bodyOf, h]
  | pack =>
    rcases packBody_cases u with ⟨-, h⟩ | ⟨-, -, h⟩ | ⟨-, -, _, -, h⟩ | ⟨-, -, -, _, _, -, -, ⟨-, h⟩ | ⟨-, h⟩⟩ <;>
      simp [bodyOf, h]
  | frame => rcases frameBody_cases u with ⟨-, h⟩ | ⟨-, h⟩ <;> simp [bodyOf, h]
  | parse => rcases parseBody_cases u with ⟨-, h⟩ | ⟨-, _, -, h⟩ | ⟨-, _, -, h⟩ <;> simp [bodyOf, h]
  | unpack =>
    rcases unpackBody_cases u with ⟨-, _, h⟩ | ⟨-, -, _, -, h⟩ | ⟨-, -, _, -, h⟩ <;> simp [bodyOf, h]
  | compress => exact absurd rfl hc
  | decompress => exact absurd rfl hd
  | illegalOpcode00 | illegalOpcode0BFF | illegalRsvd => simp [bodyOf, illegalBody]

/-- No command changes what KeepsHostSide names. -/
theorem bodyOf_keepsHostSide (i : Instr) (s : State) : KeepsHostSide s (bodyOf i s).state := by
  refine bodyOf_keeps (P := KeepsHostSide s) (fun u hu => hu) (fun j _ hc hd u hu => ?_) (by simp [KeepsHostSide])
  obtain ⟨hj, -⟩ := stepBody_frame hc hd u
  simp only [KeepsHostSide] at hu hj ⊢
  simpa only [hu] using hj

/-- No CORE step changes what KeepsHostSide names. -/
theorem complete_keepsHostSide (i : Instr) (s : State) : KeepsHostSide s (complete (bodyOf i s)) := by
  obtain ⟨e, info, b, h⟩ := complete_eq_finish (bodyOf i s)
  rw [h]
  exact bodyOf_keepsHostSide i s

/-- Only BUILD_TREE, alone or in a composite, and CLEAR write the node store, NSYM, NNODES and ROOT. -/
theorem bodyOf_keepsTree {i : Instr} (hi : i ∉ [Instr.buildTree, .compress, .decompress, .clear]) (s : State) :
    KeepsTree s (bodyOf i s).state := by
  simp only [List.mem_cons, List.not_mem_nil, or_false, not_or] at hi
  obtain ⟨hb, hc, hd, hclear⟩ := hi
  obtain ⟨-, htree, -⟩ := stepBody_frame hc hd s
  exact htree (by simp [hb, hclear])

/-- Only PARSE, alone or in DECOMPRESS, and CLEAR write PAYLOAD_OFF and PAYLOAD_LEN. -/
theorem bodyOf_keepsPayloadRegs {i : Instr} (hi : i ∉ [Instr.parse, .decompress, .clear]) (s : State) :
    KeepsPayloadRegs s (bodyOf i s).state := by
  refine bodyOf_keeps (P := KeepsPayloadRegs s) (fun u hu => hu) (fun j hj hc hd u hu => ?_) ⟨rfl, rfl⟩
  have hj' : j ∉ [Instr.parse, .clear] := by
    by_cases hi' : i = .compress
    · exact (by decide : ∀ k ∈ stepsOf .compress, k ∉ [Instr.parse, .clear]) j (hi' ▸ hj)
    · obtain rfl : j = i := by simpa [stepsOf_step hi' (fun h => hi (by simp [h]))] using hj
      simp only [List.mem_cons, List.not_mem_nil, or_false] at hi ⊢
      tauto
  obtain ⟨-, -, hpayload⟩ := stepBody_frame hc hd u
  obtain ⟨hoff, hlen⟩ := hpayload hj'
  exact ⟨hoff.trans hu.1, hlen.trans hu.2⟩

/-! The invariants. -/

/-- With all four flags 0 only OUT_LEN and ERR are left to check. -/
theorem State.Inv.of_noFlags {t : State} (hflags : NoFlags t) (hout : t.outLen.toNat ≤ t.outCap)
    (herr : t.err = true ↔ t.errCode ≠ .none) : t.Inv := by
  obtain ⟨ht, hc, hp, hr⟩ := hflags
  constructor <;> simp [*]

/-- A reset of any HUFFCORE leaves the invariants. -/
theorem State.resetWith_inv (inCap outCap seed : Nat) : (State.resetWith inCap outCap seed).Inv :=
  .of_noFlags ⟨rfl, rfl, rfl, rfl⟩ (Nat.zero_le _) (by simp [State.resetWith])

/-- A new script and new replies touch no invariant. -/
theorem State.Inv.withHost {s : State} (h : s.Inv) (script : List HostMove) (replies : List BusReply) :
    State.Inv { s with script := script, replies := replies } := { h with }

/-- Setting OUT_LEN to 0 touches no invariant. -/
theorem State.Inv.withoutOutput {s : State} (h : s.Inv) : State.Inv { s with outLen := 0 } :=
  { h with outLenFits := Nat.zero_le _ }

/-- A data-phase error keeps the invariants: it clears PACKED. -/
theorem State.Inv.dataPhaseError {s : State} (h : s.Inv) : s.dataPhaseError.Inv :=
  { h with
    outLenFits := Nat.zero_le _
    packedNeedsCodes := nofun
    packedHeaderFits := nofun
    packedPad := nofun
    parsedNotPacked := fun _ => rfl }

theorem State.Inv.freqScanBody {s : State} (h : s.Inv) : (freqScanBody s).state.Inv := by
  rcases freqScanBody_cases s with ⟨-, heq⟩ | ⟨-, heq⟩ <;> rw [heq]
  · exact h
  · exact .of_noFlags ⟨rfl, rfl, rfl, rfl⟩ h.outLenFits h.errShown

theorem State.Inv.clearBody {s : State} (h : s.Inv) : (clearBody s).state.Inv :=
  .of_noFlags ⟨rfl, rfl, rfl, rfl⟩ (Nat.zero_le _) h.errShown

/-- After BUILD_TREE the store holds FREQ's tree. -/
theorem State.Inv.buildTreeBody {s : State} (h : s.Inv) : (buildTreeBody s).state.Inv := by
  rcases buildTreeBody_cases s with ⟨_, -, heq⟩ | ⟨hsum, heq⟩ <;> rw [heq]
  · exact h
  · exact { h with
      codesNeedTree := nofun
      codesOfTree := nofun
      packedNeedsCodes := nofun
      packedHeaderFits := nofun
      packedPad := nofun
      parsedNotPacked := fun _ => rfl
      treeOfFreq := fun _ => ⟨freqTotal_le_of_no_overflow hsum, rfl, rfl, rfl,
        storeNodes_take (buildTree_nodes_length_le s.freq)⟩ }

theorem State.Inv.genCodesBody {s : State} (h : s.Inv) : (genCodesBody s).state.Inv := by
  rcases genCodesBody_cases s with ⟨-, heq⟩ | ⟨ht, heq⟩ <;> rw [heq]
  · exact h
  · exact { h with
      codesNeedTree := fun _ => ht
      codesOfTree := fun _ => rfl
      packedNeedsCodes := fun _ => rfl
      packedHeaderFits := nofun
      packedPad := nofun
      parsedNotPacked := fun _ => rfl }

/-- PAD holds the padding-count of a bit string whose length BITLEN holds. -/
theorem padCount_bitlen (len : Nat) :
    (BitVec.ofNat 3 (padCount len)).toNat = padCount (BitVec.ofNat 64 len).toNat := by
  simp only [BitVec.toNat_ofNat, padCount]
  omega

/-- What PACK leaves fits OUT_CAP, the header FRAME will write included. -/
theorem State.Inv.packBody {s : State} (h : s.Inv) : (packBody s).state.Inv := by
  rcases packBody_cases s with ⟨-, heq⟩ | ⟨-, -, heq⟩ | ⟨-, -, _, -, heq⟩ |
    ⟨hcodes, -, -, bits, _, -, -, ⟨-, heq⟩ | ⟨hfits, heq⟩⟩ <;> rw [heq]
  · exact h
  · exact h
  · exact h.dataPhaseError
  · exact h.dataPhaseError
  · exact { h with
      outLenFits := Nat.le_trans (BitVec.toNat_ofNat .. ▸ Nat.mod_le ..) hfits
      packedNeedsCodes := fun _ => hcodes
      packedHeaderFits := fun _ => Nat.le_trans (Nat.le_add_right ..) hfits
      packedPad := fun _ => padCount_bitlen bits.length
      parsedNotPacked := nofun
      parsedFromInput := nofun }

theorem State.Inv.frameBody {s : State} (h : s.Inv) : (frameBody s).state.Inv := by
  rcases frameBody_cases s with ⟨-, heq⟩ | ⟨-, heq⟩ <;> rw [heq]
  · exact h
  · exact { h with }

/-- After PARSE the registers are those of the container in IN_MEM. -/
theorem State.Inv.parseBody {s : State} (h : s.Inv) : (parseBody s).state.Inv := by
  rcases parseBody_cases s with ⟨-, heq⟩ | ⟨-, _, -, heq⟩ | ⟨hlen, c, hparse, heq⟩ <;> rw [heq]
  · exact h
  · exact { h with parsedNotPacked := nofun, parsedFromInput := nofun }
  · exact { h with
      codesNeedTree := nofun
      codesOfTree := nofun
      packedNeedsCodes := nofun
      packedHeaderFits := nofun
      packedPad := nofun
      treeOfFreq := nofun
      parsedNotPacked := fun _ => rfl
      parsedFromInput := fun _ => ⟨s.inLen.toNat, hlen, c, hparse, rfl, rfl, rfl, rfl⟩ }

/-- What UNPACK writes fits OUT_CAP. -/
theorem State.Inv.unpackBody {s : State} (h : s.Inv) : (unpackBody s).state.Inv := by
  rcases unpackBody_cases s with ⟨-, _, heq⟩ | ⟨-, -, _, -, heq⟩ | ⟨-, -, out, hout, heq⟩ <;> rw [heq]
  · exact h
  · exact h.dataPhaseError
  · exact { h with
      outLenFits := Nat.le_trans (BitVec.toNat_ofNat .. ▸ Nat.mod_le ..) (decodeBits_length_le hout)
      packedNeedsCodes := nofun
      packedHeaderFits := nofun
      packedPad := nofun
      parsedNotPacked := fun _ => rfl }

/-- The body of every command keeps the invariants, wherever it ends. -/
theorem State.Inv.bodyOf {s : State} (h : s.Inv) (i : Instr) : (bodyOf i s).state.Inv := by
  refine bodyOf_keeps (fun u hu => hu.withoutOutput) (fun j _ hc hd u hu => ?_) h
  cases j with
  | clear => exact hu.clearBody
  | freqScan => exact hu.freqScanBody
  | buildTree => exact hu.buildTreeBody
  | genCodes => exact hu.genCodesBody
  | pack => exact hu.packBody
  | frame => exact hu.frameBody
  | parse => exact hu.parseBody
  | unpack => exact hu.unpackBody
  | compress => exact absurd rfl hc
  | decompress => exact absurd rfl hd
  | illegalOpcode00 | illegalOpcode0BFF | illegalRsvd => exact hu

/-- No step command raises the code that stands for success (60_exceptions.md R231). -/
theorem stepBody_raised_ne_none {j : Instr} (hc : j ≠ .compress) (hd : j ≠ .decompress) {u v : State} {e : ErrCode}
    {info : Nat} (h : bodyOf j u = .raised v e info) : e ≠ .none := by
  cases j with
  | clear => cases h
  | freqScan =>
    rcases freqScanBody_cases u with ⟨-, heq⟩ | ⟨-, heq⟩ <;> cases heq.symm.trans h
    simp
  | buildTree =>
    rcases buildTreeBody_cases u with ⟨_, -, heq⟩ | ⟨-, heq⟩ <;> cases heq.symm.trans h
    simp
  | genCodes =>
    rcases genCodesBody_cases u with ⟨-, heq⟩ | ⟨-, heq⟩ <;> cases heq.symm.trans h
    simp
  | pack =>
    rcases packBody_cases u with ⟨-, heq⟩ | ⟨-, -, heq⟩ | ⟨-, -, _, -, heq⟩ |
      ⟨-, -, -, _, _, -, -, ⟨-, heq⟩ | ⟨-, heq⟩⟩ <;> cases heq.symm.trans h <;> simp
  | frame =>
    rcases frameBody_cases u with ⟨-, heq⟩ | ⟨-, heq⟩ <;> cases heq.symm.trans h
    simp
  | parse =>
    rcases parseBody_cases u with ⟨-, heq⟩ | ⟨-, e', he, heq⟩ | ⟨-, _, -, heq⟩ <;> cases heq.symm.trans h
    · simp
    · rintro hnone
      simpa [hnone] using parseContainer_error he
  | unpack =>
    rcases unpackBody_cases u with ⟨-, _, heq⟩ | ⟨-, -, e', he, heq⟩ | ⟨-, -, _, -, heq⟩ <;> cases heq.symm.trans h
    · simp
    · rcases decodeBits_error he with h | h <;> simp [h]
  | compress => exact absurd rfl hc
  | decompress => exact absurd rfl hd
  | illegalOpcode00 | illegalOpcode0BFF | illegalRsvd =>
    cases h
    simp

theorem bodyOf_raised_ne_none {i : Instr} {s t : State} {e : ErrCode} {info : Nat}
    (h : bodyOf i s = .raised t e info) : e ≠ .none := by
  obtain ⟨j, hj, u, v, hr⟩ := bodyOf_raised_by h
  obtain ⟨hc, hd⟩ := not_composite_of_mem_stepsOf hj
  exact stepBody_raised_ne_none hc hd hr

/-- Every CORE step keeps the invariants: it reports a code but for success exactly when the body raised one. -/
theorem State.Inv.complete {s : State} (h : s.Inv) (i : Instr) : (complete (Machine.bodyOf i s)).Inv := by
  have hbody := h.bodyOf i
  cases hr : Machine.bodyOf i s with
  | done t =>
    rw [hr] at hbody
    exact { hbody with errShown := by simp [Machine.complete] }
  | raised t e info =>
    rw [hr] at hbody
    exact { hbody with errShown := by simp [Machine.complete, bodyOf_raised_ne_none hr] }

/-- Every bus transaction keeps the invariants. -/
theorem State.Inv.busEffect {s t : State} (h : s.Inv) (heffect : BusEffect s t) : t.Inv := by
  cases heffect with
  | kept => exact h
  | drawn | dropped | inLen | irqEn | irqDone => exact { h with }
  | accepted => exact { h with errShown := by simp }
  | freq => exact .of_noFlags ⟨rfl, rfl, rfl, rfl⟩ h.outLenFits h.errShown
  | inByte => exact { h with parsedNotPacked := nofun, parsedFromInput := nofun }

/-- Settles O56: the bodies, the completion, the bus and the reset each keep the invariants. -/
theorem everyStepKeepsTheInvariants : Obligations.EveryStepKeepsTheInvariants := by
  intro s t hs h
  exact step_keeps (fun u script replies hu => hu.withHost script replies) (fun i u hu => hu.complete i)
    (fun u v hu huv => hu.busEffect huv)
    (fun u rest _ => (State.resetWith_inv u.inCap u.outCap u.fresh).withHost rest u.replies) hs h

end Sys2Proof.Machine
end

section
/-! PROOFS. The capacities, the writers of the result registers, and the reset. -/

namespace Sys2Proof.Machine

/-! The capacities (10_state.md R40). -/

/-- No bus transaction changes a capacity. -/
theorem BusEffect.keepsCaps {s t : State} (h : BusEffect s t) : t.inCap = s.inCap ∧ t.outCap = s.outCap := by
  cases h <;> exact ⟨rfl, rfl⟩

/-- No step changes a capacity. -/
theorem step_keepsCaps {s t : State} (h : step s = .next t) : t.inCap = s.inCap ∧ t.outCap = s.outCap := by
  refine step_keeps (P := fun u => u.inCap = s.inCap ∧ u.outCap = s.outCap) (fun u _ _ hu => hu) ?_ ?_
    (fun u _ hu => hu) ⟨rfl, rfl⟩ h
  · intro i u ⟨hin, hout⟩
    obtain ⟨-, -, -, -, hin', hout', -⟩ := complete_keepsHostSide i u
    exact ⟨hin'.trans hin, hout'.trans hout⟩
  · intro u v ⟨hin, hout⟩ huv
    exact ⟨huv.keepsCaps.1.trans hin, huv.keepsCaps.2.trans hout⟩

/-! The writers of NSYM, NNODES and ROOT, and of PAYLOAD_OFF and PAYLOAD_LEN (10_state.md R39, R41). -/

/-- No bus transaction writes a result register of the tree or of the container. -/
theorem BusEffect.keepsResultRegs {s t : State} (h : BusEffect s t) : KeepsTree s t ∧ KeepsPayloadRegs s t := by
  cases h <;> exact ⟨⟨rfl, rfl, rfl, rfl⟩, rfl, rfl⟩

/-- Settles O59: a CORE step keeps them but for their writers' bodies, a HOST move keeps them all. -/
theorem resultRegistersHaveTheirWriters : Obligations.ResultRegistersHaveTheirWriters := by
  intro s t hreset h
  rcases step_cases h with ⟨rest, hturn, -, rfl⟩ | ⟨m, rest, hscript, rfl⟩ | rfl
  · obtain ⟨e, info, b, hfinish⟩ := complete_eq_finish (bodyOf (decode s.cmd) { s with script := rest })
    rw [hfinish]
    refine ⟨fun hi => ?_, fun hi => ?_⟩
    · exact (bodyOf_keepsTree (hi rest hturn) { s with script := rest }).2
    · exact bodyOf_keepsPayloadRegs (hi rest hturn) { s with script := rest }
  · have hm : m ≠ .reset := fun hm => hreset rest (hm ▸ hscript)
    obtain ⟨u, hu, script, replies, heq⟩ := hostStep_effect s rest hm
    rw [heq]
    obtain ⟨htree, hpayload⟩ := hu.keepsResultRegs
    exact ⟨fun _ => htree.2, fun _ => hpayload⟩
  · exact ⟨fun _ => ⟨rfl, rfl, rfl⟩, fun _ => ⟨rfl, rfl⟩⟩

/-! The reset (10_state.md R57). -/

/-- Settles O55: nothing is valid and nothing listed after the reset, and both parameters are legal. -/
theorem resetMeetsTheInvariants : Obligations.ResetMeetsTheInvariants := by
  have hin : State.reset.inCap = Config.inCapExtra.val + 5 := rfl
  have hout : State.reset.outCap = Config.outCapExtra.val + 5 := rfl
  have hin_lt := Config.inCapExtra.isLt
  have hout_lt := Config.outCapExtra.isLt
  refine ⟨State.resetWith_inv _ _ _, ⟨?_, ?_, ?_, ?_⟩, State.reset_memory_wf, nofun, nofun⟩ <;> omega

/-- What 10_state.md R57 states of a HUFFCORE after a reset, its capacities and its draws apart. -/
theorem resetWith_values (inCap outCap seed : Nat) (script : List HostMove) (replies : List BusReply) (u : State)
    (hu : u = { State.resetWith inCap outCap seed with script := script, replies := replies }) :
    u.busy = false ∧ u.cmd = 0 ∧ statusWord u = 0 ∧ u.errCode = .none ∧ u.errInfo = 0 ∧ u.inLen = 0 ∧
      u.outLen = 0 ∧ u.pad = 0 ∧ u.nsym = 0 ∧ u.nnodes = 0 ∧ u.root = 0x1FF#9 ∧ u.payloadOff = 0 ∧
      u.payloadLen = 0 ∧ u.bitlen = 0 ∧ u.irqEn = false ∧ u.irqDone = false ∧ irq u = false ∧
      (∀ v, freqOf u v = 0) ∧ regValue u .id = 0x48554631#32 ∧
      (∀ a, inByte u a = Config.freeInByte u.inSeed a ∧ outByte u a = Config.freeOutByte u.outSeed a) := by
  subst hu
  refine ⟨rfl, rfl, by simp [statusWord, flagBit, State.resetWith], rfl, rfl, rfl, rfl, rfl, rfl, rfl, rfl, rfl, rfl,
    rfl, rfl, rfl, rfl, fun v => ?_, rfl,
    fun a => ⟨rfl, rfl⟩⟩
  exact tabulate_getElem 256 (fun _ => 0) v.toNat v.isLt

/-- Settles O54: the step of a reset move is the hardware reset, whatever was pending. -/
theorem resetLeavesTheStatedValues : Obligations.ResetLeavesTheStatedValues := by
  intro s rest hscript
  have hturn : turnOf s = .host .reset rest := by simp [turnOf, hscript]
  refine ⟨s.hardReset rest, by simp [step, hturn, hostStep], rfl, rfl, fun a => ⟨rfl, rfl⟩, ?_⟩
  rintro u (hu | hu)
  · exact resetWith_values s.inCap s.outCap s.fresh rest s.replies u hu
  · exact resetWith_values Config.inCap Config.outCap 0 [] [] u hu

end Sys2Proof.Machine
end

section
/-! PROOFS. The register map (10_state.md rule R23) and what a bus access of a register answers. -/

namespace Sys2Proof.Machine

/-! The register map, by ranges. -/

theorem regAt_freq (sym : Byte) : regAt (0x400 + 4 * sym.toNat) = .freq sym := by
  have := sym.isLt
  have hix : (0x400 + 4 * sym.toNat - 0x400) / 4 = sym.toNat := by omega
  unfold regAt
  rw [if_neg (by omega), if_neg (by omega), if_pos (by omega), hix, BitVec.ofNat_toNat, BitVec.setWidth_eq]

theorem regAt_nodeW {i : Nat} (h : i < 511) : regAt (0x1000 + 8 * i) = .nodeW (BitVec.ofNat 9 i) := by
  have hix : (0x1000 + 8 * i - 0x1000) / 8 = i := by omega
  unfold regAt
  rw [if_neg (by omega), if_neg (by omega), if_neg (by omega), if_neg (by omega), if_pos (by omega),
    if_pos (by omega), hix]

theorem regAt_nodeL {i : Nat} (h : i < 511) : regAt (0x1004 + 8 * i) = .nodeL (BitVec.ofNat 9 i) := by
  have hix : (0x1004 + 8 * i - 0x1000) / 8 = i := by omega
  unfold regAt
  rw [if_neg (by omega), if_neg (by omega), if_neg (by omega), if_neg (by omega), if_pos (by omega),
    if_neg (by omega), hix]

theorem regAt_codeLen (sym : Byte) : regAt (0x2000 + 4 * sym.toNat) = .codeLen sym := by
  have := sym.isLt
  have hix : (0x2000 + 4 * sym.toNat - 0x2000) / 4 = sym.toNat := by omega
  unfold regAt
  rw [if_neg (by omega), if_neg (by omega), if_neg (by omega), if_neg (by omega), if_neg (by omega),
    if_neg (by omega), if_pos (by omega), hix, BitVec.ofNat_toNat, BitVec.setWidth_eq]

theorem regAt_codeBits (sym : Byte) {k : Nat} (h : k < 8) :
    regAt (0x4000 + 32 * sym.toNat + 4 * k) = .codeBits sym (BitVec.ofNat 3 k) := by
  have := sym.isLt
  have hsym : (0x4000 + 32 * sym.toNat + 4 * k - 0x4000) / 32 = sym.toNat := by omega
  have hk : (0x4000 + 32 * sym.toNat + 4 * k - 0x4000) / 4 % 8 = k := by omega
  unfold regAt
  rw [if_neg (by omega), if_neg (by omega), if_neg (by omega), if_neg (by omega), if_neg (by omega),
    if_neg (by omega), if_neg (by omega), if_neg (by omega), if_pos (by omega), hsym, hk, BitVec.ofNat_toNat,
    BitVec.setWidth_eq]

/-- The register map above the single registers, by ranges. -/
inductive RegRange (off : Nat) : Reg → Prop
  | reserved (h : off < 0x400 ∨ (0x800 ≤ off ∧ off < 0x1000) ∨ (0x1FF8 ≤ off ∧ off < 0x2000) ∨
      (0x2400 ≤ off ∧ off < 0x4000) ∨ 0x6000 ≤ off) : RegRange off .reserved
  | freq (sym : Byte) (h : 0x400 ≤ off ∧ off < 0x800) : RegRange off (.freq sym)
  | nodeW (i : NodeIx) (h : 0x1000 ≤ off ∧ off < 0x1FF8) : RegRange off (.nodeW i)
  | nodeL (i : NodeIx) (h : 0x1000 ≤ off ∧ off < 0x1FF8) : RegRange off (.nodeL i)
  | codeLen (sym : Byte) (h : 0x2000 ≤ off ∧ off < 0x2400) : RegRange off (.codeLen sym)
  | codeBits (sym : Byte) (w : BitVec 3) (h : 0x4000 ≤ off ∧ off < 0x6000) : RegRange off (.codeBits sym w)

theorem regAt_range {off : Nat} (h : 0x04C ≤ off) : RegRange off (regAt off) := by
  unfold regAt
  rw [if_neg (by omega)]
  split
  · exact .reserved (by omega)
  split
  · exact .freq _ (by omega)
  split
  · exact .reserved (by omega)
  split
  · split
    · exact .nodeW _ (by omega)
    · exact .nodeL _ (by omega)
  split
  · exact .reserved (by omega)
  split
  · exact .codeLen _ (by omega)
  split
  · exact .reserved (by omega)
  split
  · exact .codeBits _ _ (by omega)
  · exact .reserved (by omega)

/-- The writable registers are CMD, IN_LEN, IRQ_EN, IRQ_STATUS and FREQ (10_state.md R54). -/
theorem isWritable_regAt {off : Nat} (h4 : off % 4 = 0) (hcmd : off ≠ 0x004) (hlen : off ≠ 0x014) (hen : off ≠ 0x03C)
    (hstatus : off ≠ 0x040) (hfreq : off < 0x400 ∨ 0x800 ≤ off) : isWritable (regAt off) = false := by
  by_cases h : off < 0x04C
  · have hlow : ∀ o < 0x04C, o % 4 = 0 → o ∉ [0x004, 0x014, 0x03C, 0x040] → isWritable (regAt o) = false := by
      decide
    exact hlow off h h4 (by simp [*])
  · have hr := regAt_range (Nat.le_of_not_lt h)
    generalize regAt off = r at hr ⊢
    cases hr with
    | freq sym h => omega
    | _ => rfl

/-- The registers that read as draws while BUSY (10_state.md R55). -/
theorem readableWhileBusy_regAt {off : Nat} (h4 : off % 4 = 0)
    (h : (0x00C ≤ off ∧ off < 0x03C) ∨ (0x400 ≤ off ∧ off < 0x800) ∨ (0x1000 ≤ off ∧ off < 0x1FF8) ∨
      (0x2000 ≤ off ∧ off < 0x2400) ∨ (0x4000 ≤ off ∧ off < 0x6000)) : readableWhileBusy (regAt off) = false := by
  by_cases hlt : off < 0x04C
  · have hlow : ∀ o < 0x03C, o % 4 = 0 → 0x00C ≤ o → readableWhileBusy (regAt o) = false := by decide
    exact hlow off (by omega) h4 (by omega)
  · have hr := regAt_range (Nat.le_of_not_lt hlt)
    generalize regAt off = r at hr ⊢
    cases hr with
    | reserved h => omega
    | _ => rfl

/-! Accesses of a register. -/

/-- A 4-byte read at an aligned offset reads the register there (20_memory.md R79). -/
theorem busRead_offset (s : State) {off : Nat} (h : off < 0x10000) (h4 : off % 4 = 0) :
    busRead s (BitVec.ofNat 32 off) 4 =
      ((readReg s (regAt off)).1, .read (readReg s (regAt off)).2 .okay) := by
  simp [busRead, targetOf_offset _ _ h, h4]

/-- A 4-byte write at an aligned offset writes the register there. -/
theorem busWrite_offset (s : State) {off : Nat} (v : Word) (h : off < 0x10000) (h4 : off % 4 = 0) :
    busWrite s (BitVec.ofNat 32 off) 4 v = (writeReg s (regAt off) v, .write .okay) := by
  simp [busWrite, targetOf_offset _ _ h, h4]

/-- While IDLE, and while BUSY where it is readable then, a register reads as its value and the state stays. -/
theorem busRead_value {s : State} {off : Nat} {r : Reg} (hr : regAt off = r) (h : off < 0x10000) (h4 : off % 4 = 0)
    (hb : s.busy = false ∨ readableWhileBusy r = true) :
    busRead s (BitVec.ofNat 32 off) 4 = (s, .read (regValue s r) .okay) := by
  rcases readReg_cases s r with ⟨hread, -⟩ | ⟨-, hbusy, hnot⟩
  · rw [busRead_offset s h h4, hr, hread]
  · simp [hbusy, hnot] at hb

/-- While BUSY every other register reads as a fresh draw (10_state.md R55). -/
theorem busRead_draw {s : State} {off : Nat} (h : off < 0x10000) (h4 : off % 4 = 0) (hb : s.busy = true)
    (hr : readableWhileBusy (regAt off) = false) :
    busRead s (BitVec.ofNat 32 off) 4 = (s.drawn, .read (Config.freeWord s.fresh) .okay) := by
  rcases readReg_cases s (regAt off) with ⟨-, hidle⟩ | ⟨hread, -⟩
  · simp [hb, hr] at hidle
  · rw [busRead_offset s h h4, hread]

/-- A byte read of either window while BUSY is a fresh draw (10_state.md R55). -/
theorem readWindow_draw {s : State} (hb : s.busy = true) (v : Byte) :
    readWindow s v = (s.drawn, (Config.freeByte s.fresh).setWidth 32) := by
  simp [readWindow, hb]

/-- Settles O43: FREQ[s] has an address of its own, and only the write to it is made. -/
theorem freqWriteInvalidates : Obligations.FreqWriteInvalidates := by
  intro s sym v
  have hlt := sym.isLt
  rw [busWrite_offset s v (by omega) (by omega), regAt_freq]
  refine ⟨fun hb => by simp [writeReg, hb, State.dropWrite], fun hb => ?_⟩
  refine ⟨{ s with freq := s.freq.set sym.toNat v sym.isLt }.invalidate, by simp [writeReg, hb], ?_, ?_,
    ⟨rfl, rfl, rfl, rfl⟩, ⟨rfl, rfl, rfl, rfl, rfl, rfl, rfl, rfl, rfl, rfl⟩, ⟨rfl, rfl, rfl, rfl⟩, rfl, ⟨rfl, rfl⟩,
    ⟨rfl, rfl, rfl, fun _ => rfl⟩, hb, rfl, rfl, rfl, rfl⟩
  · simp [freqOf]
  · intro w hw
    have hne : sym.toNat ≠ w.toNat := fun h => hw (BitVec.eq_of_toNat_eq h.symm)
    simp [freqOf, hne]

/-- Settles O46: such an offset is no writable register's. -/
theorem readOnlyOffsetsIgnoreWrites : Obligations.ReadOnlyOffsetsIgnoreWrites := by
  intro s off v h h4
  refine ⟨fun hcmd hlen hen hstatus hfreq => ?_, fun hb hrange => ?_⟩
  · rw [busWrite_offset s v h h4, writeReg_ignored (isWritable_regAt h4 hcmd hlen hen hstatus hfreq)]
  · have hreserved : regAt off = .reserved := by
      have hr := regAt_range (off := off) (by omega)
      generalize regAt off = r at hr ⊢
      cases hr with
      | reserved => rfl
      | _ => omega
    exact busRead_value hreserved h h4 (.inl hb)

/-- Settles O58: no step writes a capacity, and a legal one fits its register. -/
theorem capacitiesAreConstant : Obligations.CapacitiesAreConstant := by
  refine ⟨fun s t h => step_keepsCaps h, fun s ⟨_, hin, _, hout⟩ => ⟨BitVec.ofNat 32 s.inCap, BitVec.ofNat 32 s.outCap,
    busRead_value (off := 0x044) rfl (by omega) rfl (.inr rfl), ?_,
    busRead_value (off := 0x048) rfl (by omega) rfl (.inr rfl), ?_⟩⟩
  all_goals
    rw [BitVec.toNat_ofNat]
    omega

/-- Settles O50: the listed offsets are those of the registers that BUSY hides. -/
theorem busyReadsAreDraws : Obligations.BusyReadsAreDraws := by
  intro s hb
  refine ⟨busRead_value (off := 0x000) rfl (by omega) rfl (.inr rfl),
    busRead_value (off := 0x004) rfl (by omega) rfl (.inr rfl),
    busRead_value (off := 0x008) rfl (by omega) rfl (.inr rfl),
    busRead_value (off := 0x03C) rfl (by omega) rfl (.inr rfl),
    busRead_value (off := 0x040) rfl (by omega) rfl (.inr rfl),
    busRead_value (off := 0x044) rfl (by omega) rfl (.inr rfl),
    busRead_value (off := 0x048) rfl (by omega) rfl (.inr rfl),
    fun off h4 hrange => busRead_draw (by omega) h4 hb (readableWhileBusy_regAt h4 hrange),
    fun a ha h => ?_, fun a ha h => ?_⟩
  · simp [busRead, targetOf_inWindow _ _ ha h, readWindow_draw hb, State.drawn]
  · simp [busRead, targetOf_outWindow _ _ ha h, readWindow_draw hb, State.drawn]

/-- The value of ERR_CODE (60_exceptions.md R231). -/
theorem regValue_errCode (s : State) : regValue s .errCode = (errByte s.errCode).setWidth 32 := rfl

/-- The two halves of BITLEN are BITLEN (10_state.md R42). -/
theorem bitlen_halves (b : BitVec 64) : (b.extractLsb' 32 32).toNat * 2 ^ 32 + (b.extractLsb' 0 32).toNat = b.toNat := by
  have hb := b.isLt
  simp only [BitVec.extractLsb'_toNat, Nat.shiftRight_eq_div_pow]
  omega

/-- Settles O49: each offset reads as its register's value while IDLE. -/
theorem registersReadTheirFields : Obligations.RegistersReadTheirFields := by
  intro s hb
  simp only [BitVec.ofNat_toNat]
  refine ⟨busRead_value (off := 0x000) rfl (by omega) rfl (.inl hb),
    busRead_value (off := 0x004) rfl (by omega) rfl (.inl hb), ?_,
    busRead_value (off := 0x010) rfl (by omega) rfl (.inl hb),
    busRead_value (off := 0x014) rfl (by omega) rfl (.inl hb),
    busRead_value (off := 0x018) rfl (by omega) rfl (.inl hb),
    busRead_value (off := 0x01C) rfl (by omega) rfl (.inl hb),
    busRead_value (off := 0x020) rfl (by omega) rfl (.inl hb),
    busRead_value (off := 0x024) rfl (by omega) rfl (.inl hb),
    busRead_value (off := 0x028) rfl (by omega) rfl (.inl hb),
    busRead_value (off := 0x02C) rfl (by omega) rfl (.inl hb),
    busRead_value (off := 0x030) rfl (by omega) rfl (.inl hb),
    ⟨s.bitlen.extractLsb' 0 32, s.bitlen.extractLsb' 32 32,
      busRead_value (off := 0x034) rfl (by omega) rfl (.inl hb),
      busRead_value (off := 0x038) rfl (by omega) rfl (.inl hb), bitlen_halves s.bitlen⟩,
    busRead_value (off := 0x03C) rfl (by omega) rfl (.inl hb),
    busRead_value (off := 0x040) rfl (by omega) rfl (.inl hb), fun sym => ?_⟩
  · intro c hc herr
    have hbyte : (errByte c.1).setWidth 32 = c.2 := by
      clear herr
      revert c
      decide
    rw [busRead_value (off := 0x00C) (r := .errCode) rfl (by omega) rfl (.inl hb), regValue_errCode, herr, hbyte]
  · have := sym.isLt
    exact busRead_value (regAt_freq sym) (by omega) (by omega) (.inl hb)

end Sys2Proof.Machine
end

section
/-! PROOFS. STATUS and the read windows on the tree and the codes, bit by bit. -/

namespace Sys2Proof.Machine

/-! STATUS (10_state.md R26). -/

theorem flagBit_getLsbD (flag : Bool) (bit : Word) (i : Nat) :
    (flagBit flag bit).getLsbD i = (flag && bit.getLsbD i) := by
  cases flag <;> simp [flagBit]

/-- Bit `i` of STATUS is a flag whose bit is `i`. -/
theorem statusWord_getLsbD (s : State) (i : Nat) : (statusWord s).getLsbD i =
    (s.busy && (0x01#32).getLsbD i || s.err && (0x02#32).getLsbD i || s.overrun && (0x04#32).getLsbD i ||
      s.treeValid && (0x10#32).getLsbD i || s.codesValid && (0x20#32).getLsbD i ||
      s.packed && (0x40#32).getLsbD i || s.parsed && (0x80#32).getLsbD i) := by
  simp only [statusWord, BitVec.getLsbD_or, flagBit_getLsbD, treeValidBit, codesValidBit, packedBit, parsedBit]

/-- A word below 256 has no bit from bit 8 on. -/
theorem getLsbD_ofNat_of_ge_eight {n i : Nat} (hn : n < 2 ^ 8) (hi : 8 ≤ i) : (BitVec.ofNat 32 n).getLsbD i = false := by
  have hbit : n.testBit i = false :=
    Nat.testBit_lt_two_pow (Nat.lt_of_lt_of_le hn (Nat.pow_le_pow_right (by decide) hi))
  rw [BitVec.getLsbD_ofNat, hbit, Bool.and_false]

/-- Settles O52: the seven bits of STATUS are apart, and all below bit 8. -/
theorem statusShowsTheFlags : Obligations.StatusShowsTheFlags := by
  intro s
  refine ⟨busRead_value (off := 0x008) rfl (by omega) rfl (.inr rfl), ?_, ?_, ?_, ?_, ?_, ?_, ?_, ?_, fun i hi => ?_⟩
  case refine_9 =>
    have hhigh (n : Nat) (hn : n < 2 ^ 8) : (BitVec.ofNat 32 n).getLsbD i = false := getLsbD_ofNat_of_ge_eight hn hi
    rw [statusWord_getLsbD]
    simp (disch := decide) only [hhigh, Bool.and_false, Bool.or_false]
  all_goals
    rw [statusWord_getLsbD]
    simp

/-! The words of the windows. -/

/-- Two fields side by side are the upper one above the lower one's width. -/
theorem toNat_append_eq_add {m n : Nat} (x : BitVec m) (y : BitVec n) :
    (x ++ y).toNat = x.toNat * 2 ^ n + y.toNat := by
  rw [BitVec.toNat_append, ← Nat.shiftLeft_add_eq_or_of_lt y.isLt, Nat.shiftLeft_eq]

/-- NODE_L of a leaf (30_encoding.md R117): kind 1, the symbol, both children NIL. -/
theorem nodeLWord_leaf_toNat (sym : Byte) (w : Word) :
    (nodeLWord (.leaf sym w)).toNat = 2 ^ 31 + sym.toNat * 2 ^ 18 + 0x3FFFF := by
  have h : (nodeLWord (.leaf sym w)).toNat = (1#1 ++ 0#5 ++ sym ++ NIL ++ NIL).toNat := rfl
  rw [h]
  simp only [toNat_append_eq_add, BitVec.toNat_ofNat]
  omega

/-- NODE_L of an internal node (30_encoding.md R117): kind and symbol 0, the two children. -/
theorem nodeLWord_internal_toNat (w : Word) (left right : NodeIx) :
    (nodeLWord (.internal w left right)).toNat = left.toNat * 2 ^ 9 + right.toNat := by
  have h : (nodeLWord (.internal w left right)).toNat = (0#1 ++ 0#5 ++ 0#8 ++ left ++ right).toNat := rfl
  rw [h]
  simp only [toNat_append_eq_add, BitVec.toNat_ofNat]
  omega

theorem bitsToNat_concat (bits : BitString) (b : Bool) : bitsToNat (bits ++ [b]) = 2 * bitsToNat bits + b.toNat := by
  simp [bitsToNat]

/-- The number of a bit string shows its bits, the last in bit 0. -/
theorem bitsToNat_testBit (bits : BitString) {t : Nat} (h : t < bits.length) :
    (bitsToNat bits).testBit (bits.length - 1 - t) = bits[t] := by
  induction bits using List.reverseRecOn with
  | nil => simp at h
  | append_singleton bits b ih =>
    rw [bitsToNat_concat, List.length_append, List.length_singleton, Nat.add_sub_cancel]
    rw [List.length_append, List.length_singleton] at h
    by_cases ht : t = bits.length
    · subst ht
      cases b <;> simp [Nat.testBit_zero]
    · have ht' : t < bits.length := by omega
      obtain ⟨k, hk⟩ : ∃ k, bits.length - t = k + 1 := ⟨bits.length - 1 - t, by omega⟩
      have hhalf : (2 * bitsToNat bits + b.toNat) / 2 = bitsToNat bits := by
        have := b.toNat_lt
        omega
      rw [hk, Nat.testBit_succ, hhalf, List.getElem_append_left ht', ← ih ht']
      congr 1
      omega

/-- CODE_BITS (30_encoding.md R120): bit 31 - t of word `k` is bit 32k + t of the code. -/
theorem codeBitsWord_getLsbD (code : BitString) (k : Nat) {t : Nat} (ht : t < 32) :
    (codeBitsWord code k).getLsbD (31 - t) = code.getD (32 * k + t) false := by
  have hbit := bitsToNat_testBit ((List.range 32).map fun t => code.getD (32 * k + t) false) (t := t) (by simpa using ht)
  simp only [List.length_map, List.length_range, List.getElem_map, List.getElem_range] at hbit
  have hin : 31 - t < 32 := by omega
  rw [codeBitsWord, BitVec.getLsbD_ofNat, hbit, decide_eq_true hin, Bool.true_and]

/-- Settles O51: each window offset reads as its register, whose word is the store's entry while the flag is 1. -/
theorem windowsShowTheTreeAndTheCodes : Obligations.WindowsShowTheTreeAndTheCodes := by
  intro s hb
  refine ⟨fun i hi => ?_, fun sym => ?_, fun sym k hk => ?_⟩
  · have hix : (BitVec.ofNat 9 i).toNat = i := by
      rw [BitVec.toNat_ofNat]
      omega
    have hshown : (s.treeValid && decide (BitVec.ofNat 9 i < s.nnodes)) = true ↔
        s.treeValid = true ∧ i < s.nnodes.toNat := by
      simp [BitVec.lt_def, hix]
    refine ⟨_, _, busRead_value (regAt_nodeW hi) (by omega) (by omega) (.inl hb),
      busRead_value (regAt_nodeL hi) (by omega) (by omega) (.inl hb), fun hv hn => ?_, fun hnot => ?_⟩
    · simp only [regValue, if_pos (hshown.2 ⟨hv, hn⟩)]
      refine ⟨rfl, fun sym wt hnode => ?_, fun wt left right hnode => ?_⟩ <;> rw [nodeNo] at hnode <;> rw [hnode]
      · exact nodeLWord_leaf_toNat sym wt
      · exact nodeLWord_internal_toNat wt left right
    · have hhidden : ¬ (s.treeValid && decide (BitVec.ofNat 9 i < s.nnodes)) = true := by
        rw [hshown]
        rintro ⟨hv, hn⟩
        rcases hnot with hv' | hn'
        · simp [hv] at hv'
        · omega
      simp only [regValue, if_neg hhidden, and_self]
  · have := sym.isLt
    refine ⟨_, busRead_value (regAt_codeLen sym) (by omega) (by omega) (.inl hb), fun hv hlen => ?_, fun hv => ?_⟩
    · simp only [regValue, hv, if_true, BitVec.toNat_setWidth, BitVec.toNat_ofNat]
      omega
    · simp [regValue, hv]
  · have := sym.isLt
    have hix : (BitVec.ofNat 3 k).toNat = k := by
      rw [BitVec.toNat_ofNat]
      omega
    refine ⟨_, busRead_value (regAt_codeBits sym hk) (by omega) (by omega) (.inl hb), fun hv t ht => ?_, fun hv => ?_⟩
    · simpa only [regValue, hv, if_true, hix] using codeBitsWord_getLsbD (codeOf s.codes sym) k ht
    · simp [regValue, hv]

end Sys2Proof.Machine
end

section
/-! PROOFS. What each bus transaction answers, by the region its address reaches (20_memory.md rules R73 to R83). -/

namespace Sys2Proof.Machine

/-- The address map, by regions (20_memory.md R73). -/
inductive TargetRange (s : State) (addr : Word) : Target → Prop
  | register (h : addr.toNat < 0x10000) : TargetRange s addr (.register addr.toNat)
  | inWindow (h : 0x40000000 ≤ addr.toNat ∧ addr.toNat < 0x80000000 ∧ addr.toNat - 0x40000000 < s.inCap) :
      TargetRange s addr (.inWindow (addr.toNat - 0x40000000))
  | outWindow (h : 0x80000000 ≤ addr.toNat ∧ addr.toNat < 0xC0000000 ∧ addr.toNat - 0x80000000 < s.outCap) :
      TargetRange s addr (.outWindow (addr.toNat - 0x80000000))
  | unmapped (h : isUnmapped s addr) : TargetRange s addr .unmapped

/-- Every address is in one of the regions, and reaches what the region holds. -/
theorem targetOf_range (s : State) (addr : Word) : TargetRange s addr (targetOf s.inCap s.outCap addr) := by
  unfold targetOf
  dsimp only
  split
  · exact .register ‹_›
  split
  · exact .unmapped (by omega)
  split
  · split
    · exact .inWindow (by omega)
    · exact .unmapped (by omega)
  split
  · split
    · exact .outWindow (by omega)
    · exact .unmapped (by omega)
  · exact .unmapped (by omega)

/-- A read is one of 20_memory.md R78's list, and answers SLVERR with data 0, or reads a register or a window byte. -/
theorem busRead_cases (s : State) (addr : Word) (size : Nat) :
    (isBadAccess s addr size ∧ busRead s addr size = (s, .read 0 .slverr)) ∨
    (¬ isBadAccess s addr size ∧
      ((∃ r, busRead s addr size = ((readReg s r).1, .read (readReg s r).2 .okay)) ∨
        ∃ v, busRead s addr size = ((readWindow s v).1, .read (readWindow s v).2 .okay))) := by
  have hrange := targetOf_range s addr
  unfold busRead
  generalize targetOf s.inCap s.outCap addr = target at hrange ⊢
  cases hrange with
  | register =>
    dsimp only
    split
    · exact .inr ⟨by omega, .inl ⟨_, rfl⟩⟩
    · exact .inl ⟨by omega, rfl⟩
  | inWindow | outWindow =>
    dsimp only
    split
    · exact .inr ⟨by omega, .inr ⟨_, rfl⟩⟩
    · exact .inl ⟨by omega, rfl⟩
  | unmapped h => exact .inl ⟨.inl h, rfl⟩

/-- A write is one of 20_memory.md R78's list, and answers SLVERR, or writes a register or a byte of IN_MEM: the OUT
window takes no write. -/
theorem busWrite_cases (s : State) (addr : Word) (size : Nat) (v : Word) :
    ((isBadAccess s addr size ∨ 0x80000000 ≤ addr.toNat) ∧ busWrite s addr size v = (s, .write .slverr)) ∨
    ((addr.toNat < 0x10000 ∧ size = 4 ∧ addr.toNat % 4 = 0) ∧
      busWrite s addr size v = (writeReg s (regAt addr.toNat) v, .write .okay)) ∨
    ((0x40000000 ≤ addr.toNat ∧ addr.toNat < 0x80000000 ∧ addr.toNat - 0x40000000 < s.inCap ∧ size = 1) ∧
      busWrite s addr size v = (writeIn s (addr.toNat - 0x40000000) (v.setWidth 8), .write .okay)) := by
  have hrange := targetOf_range s addr
  unfold busWrite
  generalize targetOf s.inCap s.outCap addr = target at hrange ⊢
  cases hrange with
  | register =>
    dsimp only
    split
    · exact .inr (.inl ⟨by omega, rfl⟩)
    · exact .inl ⟨by omega, rfl⟩
  | inWindow =>
    dsimp only
    split
    · exact .inr (.inr ⟨by omega, rfl⟩)
    · exact .inl ⟨by omega, rfl⟩
  | outWindow h => exact .inl ⟨.inr h.1, rfl⟩
  | unmapped h => exact .inl ⟨.inl (.inl h), rfl⟩

/-- Settles O47: what R78 does not list reaches a register or a byte, and answers OKAY. -/
theorem slverrExactlyAsListed : Obligations.SlverrExactlyAsListed := by
  intro s addr size v
  refine ⟨fun hbad => ?_, fun hok => ?_, fun hbad => ?_, fun hok => ?_⟩
  · exact ((busRead_cases s addr size).resolve_right fun h => h.1 hbad).2
  · rcases (busRead_cases s addr size).resolve_left fun h => hok h.1 with ⟨-, ⟨_, h⟩ | ⟨_, h⟩⟩
    · exact ⟨_, _, h⟩
    · exact ⟨_, _, h⟩
  · rcases busWrite_cases s addr size v with ⟨-, h⟩ | ⟨haccess, -⟩ | ⟨haccess, -⟩
    · exact h
    · omega
    · omega
  · rcases (busWrite_cases s addr size v).resolve_left fun h => hok h.1 with ⟨-, h⟩ | ⟨-, h⟩
    · exact ⟨_, h⟩
    · exact ⟨_, h⟩

/-! Reads. -/

/-- A read changes nothing but, while BUSY, the counter of draws (20_memory.md R83). -/
theorem busRead_state (s : State) (addr : Word) (size : Nat) :
    (busRead s addr size).1 = s ∨ (s.busy = true ∧ (busRead s addr size).1 = s.drawn) := by
  rcases busRead_cases s addr size with ⟨-, h⟩ | ⟨-, ⟨r, h⟩ | ⟨v, h⟩⟩ <;> rw [h]
  · exact .inl rfl
  · rcases readReg_cases s r with ⟨hr, -⟩ | ⟨hr, hb, -⟩ <;> rw [hr]
    · exact .inl rfl
    · exact .inr ⟨hb, rfl⟩
  · rcases readWindow_cases s v with ⟨hv, -⟩ | ⟨hv, hb⟩ <;> rw [hv]
    · exact .inl rfl
    · exact .inr ⟨hb, rfl⟩

/-- A byte read of either window while IDLE returns the byte (20_memory.md R82). -/
theorem readWindow_idle {s : State} (hb : s.busy = false) (v : Byte) : readWindow s v = (s, v.setWidth 32) := by
  simp [readWindow, hb]

/-- Settles O48: a draw moves the counter only, and only while BUSY. -/
theorem readsHaveNoSideEffect : Obligations.ReadsHaveNoSideEffect := by
  intro s addr size
  have hstate := busRead_state s addr size
  refine ⟨hstate.imp_right And.right, fun hb => ⟨?_, fun a ha h => ?_, fun a ha h => ?_⟩⟩
  · rcases hstate with h | ⟨hbusy, -⟩
    · exact h
    · simp [hb] at hbusy
  · simp [busRead, targetOf_inWindow _ _ ha h, readWindow_idle hb]
  · simp [busRead, targetOf_outWindow _ _ ha h, readWindow_idle hb]

/-! Writes of the interrupt registers (20_memory.md R84). -/

/-- A write to IRQ_EN sets IE to bit 0, in IDLE and in BUSY. -/
theorem busWrite_irqEn (s : State) (v : Word) :
    busWrite s 0x03C#32 4 v = ({ s with irqEn := v.getLsbD 0 }, .write .okay) :=
  busWrite_offset s (off := 0x03C) v (by omega) rfl

/-- A write to IRQ_STATUS clears DONE where bit 0 is 1, in IDLE and in BUSY. -/
theorem busWrite_irqStatus (s : State) (v : Word) :
    busWrite s 0x040#32 4 v = ({ s with irqDone := s.irqDone && !v.getLsbD 0 }, .write .okay) := by
  rw [busWrite_offset s (off := 0x040) v (by omega) rfl]
  show ((if v.getLsbD 0 then { s with irqDone := false } else s), _) = _
  cases v.getLsbD 0 <;> simp

/-- IRQ_STATUS has one offset (10_state.md R23). -/
theorem eq_of_regAt_irqStatus {off : Nat} (h : regAt off = .irqStatus) : off = 0x040 := by
  by_cases hlt : off < 0x04C
  · have hlow : ∀ o < 0x04C, regAt o = .irqStatus → o = 0x040 := by decide
    exact hlow off hlt h
  · have hr := regAt_range (Nat.le_of_not_lt hlt)
    rw [h] at hr
    cases hr

/-- No other register's write touches DONE. -/
theorem writeReg_irqDone {r : Reg} (hr : r ≠ .irqStatus) (s : State) (v : Word) :
    (writeReg s r v).irqDone = s.irqDone := by
  cases r with
  | cmd | inLen | freq => cases hb : s.busy <;> simp [writeReg, hb]
  | irqStatus => exact absurd rfl hr
  | _ => rfl

/-- A write keeps DONE but where it is a write of 1 to IRQ_STATUS bit 0. -/
theorem busWrite_irqDone (s : State) (addr : Word) (size : Nat) (v : Word) (hdone : s.irqDone = true) :
    (busWrite s addr size v).1.irqDone = true ∨ (addr = 0x040#32 ∧ size = 4 ∧ v.getLsbD 0 = true) := by
  rcases busWrite_cases s addr size v with ⟨-, h⟩ | ⟨⟨-, rfl, -⟩, h⟩ | ⟨-, h⟩
  · exact .inl (h ▸ hdone)
  · by_cases hr : regAt addr.toNat = .irqStatus
    · obtain rfl : addr = 0x040#32 := BitVec.eq_of_toNat_eq (eq_of_regAt_irqStatus hr)
      rw [busWrite_irqStatus]
      cases v.getLsbD 0 <;> simp [hdone]
    · rw [h]
      exact .inl ((writeReg_irqDone hr s v).trans hdone)
  · rw [h]
    cases hb : s.busy <;> simp [writeIn, hb, hdone]

/-- A read keeps DONE. -/
theorem busRead_irqDone (s : State) (addr : Word) (size : Nat) : (busRead s addr size).1.irqDone = s.irqDone := by
  rcases busRead_state s addr size with h | ⟨-, h⟩ <;> simp [h]

/-- A HOST move keeps DONE but where it is the reset or a write of 1 to IRQ_STATUS bit 0. -/
theorem hostStep_irqDone (s : State) (m : HostMove) (rest : List HostMove) (hdone : s.irqDone = true) :
    (hostStep s m rest).irqDone = true ∨ m = .reset ∨
      ∃ v : Word, v.getLsbD 0 = true ∧ m = .write 0x040#32 4 v := by
  cases m with
  | read | wait | dump => exact .inl (by simp [hostStep, busRead_irqDone, hdone])
  | write addr size v =>
    rcases busWrite_irqDone s addr size v hdone with h | ⟨rfl, rfl, hv⟩
    · exact .inl (by simpa [hostStep] using h)
    · exact .inr (.inr ⟨v, hv, rfl⟩)
  | core => exact .inl hdone
  | reset => exact .inr (.inl rfl)

/-- Settles O53: every completion sets DONE, and among the HOST moves only the two named clear it. -/
theorem interruptFollowsDoneAndEnable : Obligations.InterruptFollowsDoneAndEnable := by
  intro s
  refine ⟨fun i => ?_, fun t hdone h => ?_, busWrite_irqEn s, fun v hv => ?_, fun v hv => ?_, fun v => rfl, ?_⟩
  · obtain ⟨-, -, -, hen, -⟩ := complete_keepsHostSide i s
    obtain ⟨-, hdone⟩ := complete_idle (bodyOf i s)
    exact ⟨_, exec_eq_complete i s, hdone, by rw [irq, hen, hdone, Bool.and_true]⟩
  · rcases step_cases h with ⟨rest, -, -, rfl⟩ | ⟨m, rest, hscript, rfl⟩ | rfl
    · exact .inl (complete_idle _).2
    · rcases hostStep_irqDone s m rest hdone with h | rfl | ⟨v, hv, rfl⟩
      · exact .inl h
      · exact .inr (.inl ⟨rest, hscript⟩)
      · exact .inr (.inr ⟨v, rest, hv, hscript⟩)
    · exact .inl hdone
  · rw [busWrite_irqStatus, hv, Bool.not_true, Bool.and_false]
  · rw [busWrite_irqStatus, hv, Bool.not_false, Bool.and_true]
  · simp [irq]

/-! Writes of the input (20_memory.md R81), and writes while BUSY (R80). -/

/-- Settles O44: the IN window's byte at `a` is all the write reaches, and PARSED all it clears. -/
theorem inputWriteClearsParsed : Obligations.InputWriteClearsParsed := by
  rintro s a v hb ⟨-, hin, -, -⟩ ha
  refine ⟨{ s with inMem := Memory.set s.inMem a (v.setWidth 8), parsed := false }, ?_, ?_, fun b hne => ?_, rfl, ?_,
    rfl, hb, rfl, rfl, rfl, rfl, rfl, rfl, rfl, rfl, rfl, ?_⟩
  · simp [busWrite, targetOf_inWindow _ _ ha (by omega : a < 2 ^ 30), writeIn, hb]
  · simp [inByte]
  · simp [inByte, Memory.find_set_other _ _ hne]
  · exact ⟨rfl, rfl, rfl, rfl, ⟨rfl, rfl, rfl, rfl⟩, rfl, ⟨rfl, rfl⟩, rfl, rfl, rfl, fun _ => rfl⟩
  · rw [busWrite_offset s (off := 0x014) v (by omega) rfl]
    simp [regAt, writeReg, hb]

/-- While BUSY a write of a register that R80 lists is dropped. -/
theorem writeReg_dropped {s : State} (hb : s.busy = true) (v : Word) {off : Nat}
    (h : off = 0x004 ∨ off = 0x014 ∨ (0x400 ≤ off ∧ off < 0x800)) : writeReg s (regAt off) v = s.dropWrite := by
  rcases h with rfl | rfl | h
  · exact if_pos hb
  · exact if_pos hb
  · have hr := regAt_range (off := off) (by omega)
    generalize regAt off = r at hr ⊢
    cases hr with
    | freq sym => exact if_pos hb
    | _ => omega

/-- The writes that R80 lists are dropped while BUSY. -/
theorem busWrite_dropped {s : State} (hb : s.busy = true) {addr : Word} {size : Nat} (v : Word)
    (hdrop : isDroppedWhileBusy s addr size) : busWrite s addr size v = (s.dropWrite, .write .okay) := by
  unfold isDroppedWhileBusy at hdrop
  rcases busWrite_cases s addr size v with ⟨hbad, -⟩ | ⟨haccess, h⟩ | ⟨-, h⟩
  · bv_omega
  · rw [h, writeReg_dropped hb v (by bv_omega)]
  · rw [h, writeIn, if_pos hb]

/-- Every write changes nothing but for those that R80 lists and those of the interrupt registers. -/
theorem busWrite_kept {s : State} {addr : Word} {size : Nat} (v : Word)
    (hdrop : ¬ isDroppedWhileBusy s addr size) (hirq : ¬ (size = 4 ∧ (addr = 0x03C#32 ∨ addr = 0x040#32))) :
    (busWrite s addr size v).1 = s := by
  unfold isDroppedWhileBusy at hdrop
  rcases busWrite_cases s addr size v with ⟨-, h⟩ | ⟨⟨hlt, hsize, h4⟩, h⟩ | ⟨hwindow, -⟩
  · rw [h]
  · have hignored : isWritable (regAt addr.toNat) = false :=
      isWritable_regAt h4 (by bv_omega) (by bv_omega) (by bv_omega) (by bv_omega) (by bv_omega)
    rw [h, writeReg_ignored hignored]
  · omega

/-- Settles O45: the address map has each write at a register or a byte that R80 lists, or at none. -/
theorem busyDropsWrites : Obligations.BusyDropsWrites := by
  intro s addr size v hb
  exact ⟨busWrite_dropped hb v, busWrite_irqEn s v, busWrite_irqStatus s v, busWrite_kept v⟩

/-- Settles O60: of all that a bus transaction can do, BUSY leaves a draw, a dropped write and the interrupt bits. -/
theorem busyHostMovesKeepTheCommandsInputs : Obligations.BusyHostMovesKeepTheCommandsInputs := by
  intro s m rest hb hm
  obtain ⟨u, hu, script, replies, heq⟩ := hostStep_effect s rest hm
  rw [heq]
  cases hu with
  | kept | drawn | dropped | irqEn | irqDone => rfl
  | accepted hidle | inLen hidle | freq hidle | inByte hidle => simp [hb] at hidle

end Sys2Proof.Machine
end

section
/-! PROOFS. The canonical form of the memories and their windows (20_memory.md rules R70 to R72). -/

namespace Sys2Proof.Machine

/-- A run of bytes that ends within `cap` lists no address beyond it. -/
theorem Memory.writeBytes_fits {m : Memory} {base cap : Nat} {bytes : List Byte} (hm : ∀ c ∈ m, c.1 < cap)
    (hfits : base + bytes.length ≤ cap) : ∀ c ∈ Memory.writeBytes m base bytes, c.1 < cap := by
  induction bytes generalizing m base with
  | nil => exact hm
  | cons v vs ih =>
    rw [List.length_cons] at hfits
    refine ih (fun c hc => ?_) (by omega)
    rcases Memory.mem_set hc with rfl | hc
    · show base < cap
      omega
    · exact hm c hc

/-- The table has five bytes for each leaf of the tree (30_encoding.md R111). -/
theorem tableRecords_length (fs : List Word) (sym : Nat) :
    (tableRecords fs sym).length = 5 * (leavesOf fs sym).length := by
  induction fs generalizing sym with
  | nil => rfl
  | cons f fs ih =>
    unfold tableRecords leavesOf
    split
    · exact ih _
    · simp only [List.length_append, List.length_cons, be32Bytes, List.length_nil, ih]
      omega

/-- The header has the size that PACK leaves for it (43_bit_packer.md R183). -/
theorem containerHeader_length (freq : Vector Word 256) (pad : BitVec 3) :
    (containerHeader freq pad).length = headerLen (buildTree freq).nsym := by
  have hnsym : (buildTree freq).nsym = (leavesOf freq.toList 0).length := rfl
  simp only [containerHeader, List.length_append, List.length_cons, be32Bytes, List.length_nil, tableRecords_length,
    headerLen, hnsym]
  omega

/-- The header FRAME writes fits OUT_CAP: NSYM is the number of the table's symbols while PACKED is 1. -/
theorem State.Inv.containerHeader_fits {s : State} (h : s.Inv) (hp : s.packed = true) :
    (containerHeader s.freq s.pad).length ≤ s.outCap := by
  obtain ⟨-, hnsym, -⟩ := h.treeOfFreq (h.codesNeedTree (h.packedNeedsCodes hp))
  have hle := buildTree_nsym_le s.freq
  have hnat : s.nsym.toNat = (buildTree s.freq).nsym := by
    rw [hnsym, BitVec.toNat_ofNat]
    omega
  rw [containerHeader_length, ← hnat]
  exact h.packedHeaderFits hp

/-- All a step command can do to OUT_MEM: nothing, a fresh draw, or a run of bytes, which the invariants keep inside
the window (20_memory.md R72, 60_exceptions.md R238). -/
inductive OutMemEffect (s : State) : Memory → Prop
  | kept : OutMemEffect s s.outMem
  | drawn : OutMemEffect s []
  | written {base : Nat} {bytes : List Byte} (h : s.Inv → base + bytes.length ≤ s.outCap) :
      OutMemEffect s (Memory.writeBytes s.outMem base bytes)

/-- What each step command writes of OUT_MEM: PACK, FRAME and UNPACK a run of bytes, the others nothing. -/
theorem stepBody_outMem {j : Instr} (hc : j ≠ .compress) (hd : j ≠ .decompress) (s : State) :
    OutMemEffect s (bodyOf j s).state.outMem := by
  cases j with
  | clear => exact .kept
  | freqScan => rcases freqScanBody_cases s with ⟨-, h⟩ | ⟨-, h⟩ <;> rw [bodyOf, h] <;> exact .kept
  | buildTree => rcases buildTreeBody_cases s with ⟨_, -, h⟩ | ⟨-, h⟩ <;> rw [bodyOf, h] <;> exact .kept
  | genCodes => rcases genCodesBody_cases s with ⟨-, h⟩ | ⟨-, h⟩ <;> rw [bodyOf, h] <;> exact .kept
  | pack =>
    rcases packBody_cases s with ⟨-, h⟩ | ⟨-, -, h⟩ | ⟨-, -, _, -, h⟩ |
      ⟨-, -, -, _, _, -, -, ⟨-, h⟩ | ⟨hfits, h⟩⟩ <;> rw [bodyOf, h]
    · exact .kept
    · exact .kept
    · exact .drawn
    · exact .drawn
    · exact .written fun _ => hfits
  | frame =>
    rcases frameBody_cases s with ⟨-, h⟩ | ⟨hp, h⟩ <;> rw [bodyOf, h]
    · exact .kept
    · exact .written fun hinv => by simpa using hinv.containerHeader_fits hp
  | parse => rcases parseBody_cases s with ⟨-, h⟩ | ⟨-, _, -, h⟩ | ⟨-, _, -, h⟩ <;> rw [bodyOf, h] <;> exact .kept
  | unpack =>
    rcases unpackBody_cases s with ⟨-, _, h⟩ | ⟨-, -, _, -, h⟩ | ⟨-, -, out, hout, h⟩ <;> rw [bodyOf, h]
    · exact .kept
    · exact .drawn
    · exact .written fun _ => by simpa using decodeBits_length_le hout
  | compress => exact absurd rfl hc
  | decompress => exact absurd rfl hd
  | illegalOpcode00 | illegalOpcode0BFF | illegalRsvd => exact .kept

/-- The canonical form needs no invariant: every run of bytes keeps it. -/
theorem OutMemEffect.wf {s : State} {m : Memory} (h : OutMemEffect s m) (hs : Memory.wf s.outMem) : Memory.wf m := by
  cases h with
  | kept => exact hs
  | drawn => exact .nil
  | written => exact Memory.wf_writeBytes _ _ hs

/-- From a state that meets the invariants OUT_MEM stays inside its window. -/
theorem OutMemEffect.fits {s : State} {m : Memory} (h : OutMemEffect s m) (hinv : s.Inv) (hs : s.outMemFits) :
    ∀ c ∈ m, c.1 < s.outCap := by
  cases h with
  | kept => exact hs
  | drawn => nofun
  | written hfits => exact Memory.writeBytes_fits hs (hfits hinv)

/-- Every CORE step keeps the canonical form of both memories: it leaves IN_MEM alone. -/
theorem complete_memoryWf (i : Instr) {s : State} (hs : s.memoryWf) : (complete (bodyOf i s)).memoryWf := by
  obtain ⟨e, info, b, hfinish⟩ := complete_eq_finish (bodyOf i s)
  obtain ⟨-, -, -, -, -, -, hin, -⟩ := bodyOf_keepsHostSide i s
  have hout : Memory.wf (bodyOf i s).state.outMem :=
    bodyOf_keeps (P := fun u => Memory.wf u.outMem) (fun u hu => hu)
      (fun j _ hc hd u hu => (stepBody_outMem hc hd u).wf hu) hs.2
  rw [hfinish]
  exact ⟨hin ▸ hs.1, hout⟩

/-- Every CORE step writes OUT_MEM inside its window. -/
theorem complete_outMemFits (i : Instr) {s : State} (hinv : s.Inv) (hs : s.outMemFits) :
    (complete (bodyOf i s)).outMemFits := by
  obtain ⟨e, info, b, hfinish⟩ := complete_eq_finish (bodyOf i s)
  rw [hfinish]
  refine (bodyOf_keeps (P := fun u => u.Inv ∧ u.outMemFits) (fun u hu => ⟨hu.1.withoutOutput, hu.2⟩)
    (fun j _ hc hd u hu => ⟨hu.1.bodyOf j, ?_⟩) ⟨hinv, hs⟩).2
  obtain ⟨-, -, -, -, -, hcap, -⟩ := bodyOf_keepsHostSide j u
  rw [State.outMemFits, hcap]
  exact (stepBody_outMem hc hd u).fits hu.1 hu.2

/-- Every bus transaction keeps the canonical form of both memories. -/
theorem BusEffect.memoryWf {s t : State} (h : BusEffect s t) (hs : s.memoryWf) : t.memoryWf := by
  cases h with
  | inByte => exact ⟨Memory.wf_set _ _ hs.1, hs.2⟩
  | _ => exact hs

/-- Every bus transaction writes IN_MEM inside its window. -/
theorem BusEffect.inMemFits {s t : State} (h : BusEffect s t) (hs : s.inMemFits) : t.inMemFits := by
  cases h with
  | inByte _ ha =>
    intro c hc
    rcases Memory.mem_set hc with rfl | hc
    · exact ha
    · exact hs c hc
  | _ => exact hs

/-- No bus transaction writes OUT_MEM. -/
theorem BusEffect.outMemFits {s t : State} (h : BusEffect s t) (hs : s.outMemFits) : t.outMemFits := by
  cases h <;> exact hs

/-- Settles O57: the host writes one byte of IN_MEM, CORE a run of bytes of OUT_MEM, and the reset empties both. -/
theorem everyStepKeepsTheMemoriesCanonical : Obligations.EveryStepKeepsTheMemoriesCanonical := by
  intro s t h
  refine ⟨fun hs => ?_, fun hs => ?_, fun hinv hs => ?_⟩
  · exact step_keeps (P := State.memoryWf) (fun u _ _ hu => hu) (fun i u hu => complete_memoryWf i hu)
      (fun u v hu huv => huv.memoryWf hu) (fun u rest _ => ⟨.nil, .nil⟩) hs h
  · refine step_keeps (P := State.inMemFits) (fun u _ _ hu => hu) (fun i u hu => ?_)
      (fun u v hu huv => huv.inMemFits hu) (fun u rest _ => nofun) hs h
    obtain ⟨-, -, -, -, hcap, -, hin, -⟩ := complete_keepsHostSide i u
    rwa [State.inMemFits, hcap, hin]
  · exact (step_keeps (P := fun u => u.Inv ∧ u.outMemFits)
      (fun u script replies hu => ⟨hu.1.withHost script replies, hu.2⟩)
      (fun i u hu => ⟨hu.1.complete i, complete_outMemFits i hu.1 hu.2⟩)
      (fun u v hu huv => ⟨hu.1.busEffect huv, huv.outMemFits hu.2⟩)
      (fun u rest _ => ⟨(State.resetWith_inv u.inCap u.outCap u.fresh).withHost rest u.replies, nofun⟩)
      ⟨hinv, hs⟩ h).2

end Sys2Proof.Machine
end

section
/-! PROOFS. The command word is its two fields, and the decoder and the encoder are inverse to each other
(30_encoding.md rules R100 to R106). -/

namespace Sys2Proof.Machine

open Sys2Proof.Laws.EncodesItsRow (opcodeOf_append rsvdOf_append)

/-! The two fields of a word (R100, R101). -/

theorem opcodeOf_toNat (w : Word) : (opcodeOf w).toNat = w.toNat % 256 := BitVec.extractLsb'_toNat ..

theorem rsvdOf_toNat (w : Word) : (rsvdOf w).toNat = w.toNat / 256 := by
  have hw : w.toNat < 2 ^ 32 := w.isLt
  have h : (rsvdOf w).toNat = w.toNat >>> 8 % 2 ^ 24 := BitVec.extractLsb'_toNat ..
  rw [h, Nat.shiftRight_eq_div_pow]
  omega

theorem rsvdOf_append_opcodeOf (w : Word) : rsvdOf w ++ opcodeOf w = w := by
  apply BitVec.eq_of_toNat_eq
  rw [toNat_append_byte, rsvdOf_toNat, opcodeOf_toNat]
  omega

theorem rsvdOf_eq_zero_iff (w : Word) : rsvdOf w = 0 ↔ w.toNat / 256 = 0 := by
  rw [← rsvdOf_toNat]
  exact BitVec.toNat_inj.symm

/-! The opcode map (R104, R105): eleven opcodes with a row of their own, then the reserved range. -/

theorem decodeOpcode_reserved {opcode : Byte} (h : 0x0B ≤ opcode.toNat) :
    decodeOpcode opcode = .illegalOpcode0BFF opcode := by
  obtain ⟨n, hn⟩ := Nat.exists_eq_add_of_le' h
  simp only [decodeOpcode, hn]

/-- Every opcode is one of the reserved range or one of the eleven below it. -/
theorem opcode_reserved_or_named (opcode : Byte) :
    0x0B ≤ opcode.toNat ∨ opcode ∈ (List.range 0x0B).map (BitVec.ofNat 8) :=
  (Nat.lt_or_ge opcode.toNat 0x0B).symm.imp_right fun h =>
    List.mem_map.2 ⟨opcode.toNat, List.mem_range.2 h, by simp⟩

theorem decodeOpcode_wellFormed (opcode : Byte) : (decodeOpcode opcode).wellFormed = true := by
  rcases opcode_reserved_or_named opcode with h | h
  · simpa [decodeOpcode_reserved h, Instr.wellFormed, reservedOpcode] using h
  · revert opcode
    decide

theorem encode_decodeOpcode (opcode : Byte) : encode (decodeOpcode opcode) = (0 : BitVec 24) ++ opcode := by
  rcases opcode_reserved_or_named opcode with h | h
  · rw [decodeOpcode_reserved h, encode]
  · revert opcode
    decide

theorem decodeOpcode_isIllegal (opcode : Byte) :
    isIllegal (decodeOpcode opcode) = true ↔ opcode.toNat = 0 ∨ 0x0B ≤ opcode.toNat := by
  rcases opcode_reserved_or_named opcode with h | h
  · simp [decodeOpcode_reserved h, isIllegal, h]
  · revert opcode
    decide

/-! The decoder: the reserved field first, then the opcode map (R102, R106). -/

theorem decode_of_rsvd_zero {w : Word} (h : rsvdOf w = 0) : decode w = decodeOpcode (opcodeOf w) := if_pos h

theorem decode_of_rsvd_ne_zero {w : Word} (h : rsvdOf w ≠ 0) : decode w = .illegalRsvd (rsvdOf w) (opcodeOf w) :=
  if_neg h

/-- The word of a reserved opcode decodes through the opcode map. -/
theorem decode_encode_reserved {opcode : Byte} (h : 0x0B ≤ opcode.toNat) :
    decode (encode (.illegalOpcode0BFF opcode)) = .illegalOpcode0BFF opcode := by
  rw [encode, decode_of_rsvd_zero (rsvdOf_append 0 opcode), opcodeOf_append, decodeOpcode_reserved h]

/-- The word of a reserved field that is not 0 keeps both fields. -/
theorem decode_encode_rsvd {rsvd : BitVec 24} (h : rsvd ≠ 0) (opcode : Byte) :
    decode (encode (.illegalRsvd rsvd opcode)) = .illegalRsvd rsvd opcode := by
  have hr : rsvdOf (rsvd ++ opcode) = rsvd := rsvdOf_append rsvd opcode
  rw [encode, decode_of_rsvd_ne_zero (hr.symm ▸ h), hr, opcodeOf_append]

/-- Settles O3: ten commands and opcode 0x00 have one word each; the two illegal rows with operands keep them in
their fields. -/
theorem decodeOfEncodeIsTheInstruction : Obligations.DecodeOfEncodeIsTheInstruction := by
  intro i hwf
  cases i with
  | illegalOpcode0BFF opcode =>
    exact decode_encode_reserved (by simpa only [Instr.wellFormed, reservedOpcode, decide_eq_true_eq] using hwf)
  | illegalRsvd rsvd opcode =>
    exact decode_encode_rsvd (by simpa only [Instr.wellFormed, nonzeroRsvd, decide_eq_true_eq] using hwf) opcode
  | _ => rfl

/-- Settles O4, by the two branches of the decoder: either way the instruction keeps both fields of the word. -/
theorem encodeOfDecodeIsTheWord : Obligations.EncodeOfDecodeIsTheWord := by
  intro w
  have hword : rsvdOf w ++ opcodeOf w = w := rsvdOf_append_opcodeOf w
  by_cases h : rsvdOf w = 0
  · rw [decode_of_rsvd_zero h]
    refine ⟨decodeOpcode_wellFormed _, ?_⟩
    rw [encode_decodeOpcode, ← h, hword]
  · rw [decode_of_rsvd_ne_zero h]
    exact ⟨by simpa only [Instr.wellFormed, nonzeroRsvd, decide_eq_true_eq] using h, hword⟩

/-- Settles O1: each of the fourteen words is the encoding of the instruction it decodes to. -/
theorem decodeReadsTheOpcodeMap : Obligations.DecodeReadsTheOpcodeMap := by
  have h := decodeOfEncodeIsTheInstruction
  exact ⟨h .clear rfl, h .freqScan rfl, h .buildTree rfl, h .genCodes rfl, h .pack rfl, h .frame rfl, h .parse rfl,
    h .unpack rfl, h .compress rfl, h .decompress rfl, h .illegalOpcode00 rfl, h (.illegalOpcode0BFF 0x0B) rfl,
    h (.illegalOpcode0BFF 0xFF) rfl, h (.illegalRsvd 0x000001 0x02) rfl⟩

end Sys2Proof.Machine
end

section
/-! PROOFS. The codes a command can end in, and that ILLEGAL_CMD is the code of the illegal words alone
(30_encoding.md rules R102 and R105, 60_exceptions.md rule R234). -/

namespace Sys2Proof.Machine

/-- Every error a step command raises is of its row of 60_exceptions.md R234. -/
theorem stepBody_raised_allowed {j : Instr} (hc : j ≠ .compress) (hd : j ≠ .decompress) {u v : State} {e : ErrCode}
    {info : Nat} (h : bodyOf j u = .raised v e info) : e ∈ allowedErrors j := by
  cases j with
  | clear => cases h
  | freqScan =>
    rcases freqScanBody_cases u with ⟨-, heq⟩ | ⟨-, heq⟩ <;> cases heq.symm.trans h
    simp [allowedErrors]
  | buildTree =>
    rcases buildTreeBody_cases u with ⟨_, -, heq⟩ | ⟨-, heq⟩ <;> cases heq.symm.trans h
    simp [allowedErrors]
  | genCodes =>
    rcases genCodesBody_cases u with ⟨-, heq⟩ | ⟨-, heq⟩ <;> cases heq.symm.trans h
    simp [allowedErrors]
  | pack =>
    rcases packBody_cases u with ⟨-, heq⟩ | ⟨-, -, heq⟩ | ⟨-, -, _, -, heq⟩ |
      ⟨-, -, -, _, _, -, -, ⟨-, heq⟩ | ⟨-, heq⟩⟩ <;> cases heq.symm.trans h <;> simp [allowedErrors]
  | frame =>
    rcases frameBody_cases u with ⟨-, heq⟩ | ⟨-, heq⟩ <;> cases heq.symm.trans h
    simp [allowedErrors]
  | parse =>
    rcases parseBody_cases u with ⟨-, heq⟩ | ⟨-, _, he, heq⟩ | ⟨-, _, -, heq⟩ <;> cases heq.symm.trans h
    · simp [allowedErrors]
    · exact List.mem_cons_of_mem _ (parseContainer_error he)
  | unpack =>
    rcases unpackBody_cases u with ⟨-, _, heq⟩ | ⟨-, -, _, he, heq⟩ | ⟨-, -, _, -, heq⟩ <;> cases heq.symm.trans h
    · simp [allowedErrors]
    · rcases decodeBits_error he with h | h <;> simp [h, allowedErrors]
  | compress => exact absurd rfl hc
  | decompress => exact absurd rfl hd
  | illegalOpcode00 | illegalOpcode0BFF | illegalRsvd =>
    cases h
    simp [allowedErrors]

/-- A command with a step that may end in ILLEGAL_CMD is an illegal word. -/
theorem isIllegal_of_step_allows_illegalCmd {i j : Instr} (hj : j ∈ stepsOf i) (he : .illegalCmd ∈ allowedErrors j) :
    isIllegal i = true := by
  revert j
  cases i <;> simp [stepsOf, allowedErrors, isIllegal]

/-- The body of an illegal word is the one that raises ILLEGAL_CMD (46_control.md R226). -/
theorem bodyOf_of_isIllegal {i : Instr} (h : isIllegal i = true) : bodyOf i = illegalBody := by
  cases i with
  | illegalOpcode00 | illegalOpcode0BFF | illegalRsvd => rfl
  | _ => cases h

/-- A command completes with ILLEGAL_CMD exactly when it is an illegal word. -/
theorem complete_errCode_illegalCmd_iff (i : Instr) (s : State) :
    (complete (bodyOf i s)).errCode = .illegalCmd ↔ isIllegal i = true := by
  constructor
  · intro h
    rcases complete_cases (bodyOf i s) with ⟨u, -, hdone⟩ | ⟨u, e, info, hraised, herror⟩
    · simp [hdone] at h
    · obtain rfl : e = .illegalCmd := by simpa [herror] using h
      obtain ⟨j, hj, u', v, hstep⟩ := bodyOf_raised_by hraised
      obtain ⟨hc, hd⟩ := not_composite_of_mem_stepsOf hj
      exact isIllegal_of_step_allows_illegalCmd hj (stepBody_raised_allowed hc hd hstep)
  · intro h
    rw [bodyOf_of_isIllegal h]
    rfl

/-- A word decodes to an illegal row exactly when its reserved field is not 0 or its opcode is reserved. -/
theorem isIllegal_decode_iff (w : Word) :
    isIllegal (decode w) = true ↔ w.toNat / 256 ≠ 0 ∨ w.toNat % 256 = 0 ∨ 0x0B ≤ w.toNat % 256 := by
  by_cases h : rsvdOf w = 0
  · have hzero : w.toNat / 256 = 0 := (rsvdOf_eq_zero_iff w).1 h
    simp only [decode_of_rsvd_zero h, decodeOpcode_isIllegal, opcodeOf_toNat, hzero, ne_eq, not_true_eq_false,
      false_or]
  · have hne : w.toNat / 256 ≠ 0 := fun hzero => h ((rsvdOf_eq_zero_iff w).2 hzero)
    simp [decode_of_rsvd_ne_zero h, isIllegal, hne]

/-- Settles O2: the decoder's two branches give the illegal words, and only their bodies raise ILLEGAL_CMD. -/
theorem illegalExactlyTheReservedWords : Obligations.IllegalExactlyTheReservedWords := by
  intro w
  refine ⟨isIllegal_decode_iff w, fun s => ⟨_, exec_eq_complete (decode w) s, ?_⟩⟩
  exact complete_errCode_illegalCmd_iff (decode w) s

end Sys2Proof.Machine
end

section
/-! PROOFS. How a command ends, from the end of its body, and FREQ_SCAN (40_frequency.md rules R140 and R141). -/

namespace Sys2Proof.Machine

/-! The end of a command. -/

/-- Every command completes, whatever its body answers. -/
theorem complete_completed (i : Instr) (s : State) : Completed s (complete (bodyOf i s)) := by
  obtain ⟨hbusy, hdone⟩ := complete_idle (bodyOf i s)
  exact ⟨hbusy, hdone, complete_keepsHostSide i s⟩

/-- A command whose body is done succeeds. -/
theorem exec_of_done {i : Instr} {s u : State} (h : bodyOf i s = .done u) :
    exec i s = .next (u.finish .none 0 false) ∧ Succeeded s (u.finish .none 0 false) := by
  have hcompleted := complete_completed i s
  rw [exec_eq_complete, h]
  rw [h] at hcompleted
  exact ⟨rfl, hcompleted, rfl, rfl, rfl⟩

/-- A command whose body raises an error fails with it. -/
theorem exec_of_raised {i : Instr} {s u : State} {e : ErrCode} {info : Nat} (h : bodyOf i s = .raised u e info) :
    exec i s = .next (u.takeError e info) ∧ Failed s (u.takeError e info) e (errInfoWord info) := by
  have hcompleted := complete_completed i s
  rw [exec_eq_complete, h]
  rw [h] at hcompleted
  exact ⟨rfl, hcompleted, rfl, rfl, rfl⟩

/-! The table of counts. -/

/-- Entry `v` of the table is the count of `v`, as a word. -/
theorem countBytes_getElem (bytes : List Byte) (v : Byte) :
    (countBytes bytes)[v.toNat]'v.isLt = BitVec.ofNat 32 (bytes.count v) := by
  simp [countBytes]

/-- In an input of fewer than 2^32 bytes every count fits its word. -/
theorem toNat_ofNat_count {bytes : List Byte} (hlen : bytes.length < 2 ^ 32) (v : Byte) :
    (BitVec.ofNat 32 (bytes.count v)).toNat = bytes.count v :=
  Nat.mod_eq_of_lt (List.count_le_length.trans_lt hlen)

/-- Counting the values of the bytes is counting the bytes. -/
theorem count_map_toNat (bytes : List Byte) {k : Nat} (hk : k < 256) :
    (bytes.map BitVec.toNat).count k = bytes.count (BitVec.ofNat 8 k) := by
  have hcount := List.count_map_of_injective bytes BitVec.toNat (fun _ _ => BitVec.eq_of_toNat_eq) (BitVec.ofNat 8 k)
  rwa [BitVec.toNat_ofNat, Nat.mod_eq_of_lt hk] at hcount

/-- Every byte is counted once: the counts sum to the number of bytes (R141 item 1). -/
theorem sum_count_eq_length (bytes : List Byte) :
    ((List.range 256).map fun k => bytes.count (BitVec.ofNat 8 k)).sum = bytes.length := by
  have hmem : ∀ k ∈ (↑(bytes.map BitVec.toNat) : Multiset Nat), k ∈ Finset.range 256 := by
    intro k hk
    obtain ⟨b, -, rfl⟩ := List.mem_map.1 (Multiset.mem_coe.1 hk)
    exact Finset.mem_range.2 b.isLt
  calc ((List.range 256).map fun k => bytes.count (BitVec.ofNat 8 k)).sum
      = ∑ k ∈ Finset.range 256, bytes.count (BitVec.ofNat 8 k) := rfl
    _ = ∑ k ∈ Finset.range 256, Multiset.count k ↑(bytes.map BitVec.toNat) := by
        refine Finset.sum_congr rfl fun k hk => ?_
        rw [Multiset.coe_count, count_map_toNat bytes (Finset.mem_range.1 hk)]
    _ = bytes.length := by rw [Multiset.sum_count_eq_card hmem, Multiset.coe_card, List.length_map]

/-- The total of a table of counts is the number of bytes counted. -/
theorem freqTotal_countBytes {bytes : List Byte} (hlen : bytes.length < 2 ^ 32) :
    freqTotal (countBytes bytes) = bytes.length := by
  have hlist : (countBytes bytes).toList =
      (List.range 256).map fun k => BitVec.ofNat 32 (bytes.count (BitVec.ofNat 8 k)) := rfl
  rw [freqTotal, freqSumBelow, List.take_of_length_le (by simp), hlist, List.map_map]
  simpa only [Function.comp_def, toNat_ofNat_count hlen] using sum_count_eq_length bytes

/-- A count is not 0 exactly for the bytes that occur (R141 item 2). -/
theorem ofNat_count_ne_zero_iff {bytes : List Byte} (hlen : bytes.length < 2 ^ 32) (v : Byte) :
    BitVec.ofNat 32 (bytes.count v) ≠ 0 ↔ v ∈ bytes := by
  rw [← BitVec.toNat_ne_iff_ne, toNat_ofNat_count hlen, ← List.count_pos_iff]
  exact Nat.pos_iff_ne_zero.symm

/-- The order of the bytes does not matter (R141 item 3). -/
theorem countBytes_perm {bytes bytes' : List Byte} (h : bytes.Perm bytes') : countBytes bytes = countBytes bytes' := by
  simp only [countBytes, h.count_eq]

/-! FREQ_SCAN. -/

/-- The input is IN_LEN bytes long, which its 32-bit register bounds. -/
theorem input_length_lt (s : State) : s.input.length < 2 ^ 32 := by
  rw [State.input, inBytes_length]
  exact s.inLen.isLt

/-- The state FREQ_SCAN ends in when IN_LEN is within IN_CAP. -/
def freqScanned (s : State) : State := State.finish { s with freq := countBytes s.input }.invalidate .none 0 false

@[simp] theorem freqScanned_freq (s : State) : (freqScanned s).freq = countBytes s.input := rfl

/-- Within IN_CAP, FREQ_SCAN succeeds. -/
theorem exec_freqScan {s : State} (hlen : s.inLen.toNat ≤ s.inCap) :
    exec .freqScan s = .next (freqScanned s) ∧ Succeeded s (freqScanned s) := by
  rcases freqScanBody_cases s with ⟨hgt, -⟩ | ⟨-, hbody⟩
  · omega
  · exact exec_of_done hbody

/-- Above IN_CAP, FREQ_SCAN fails with IN_LEN_RANGE. -/
theorem exec_freqScan_range {s : State} (hlen : s.inCap < s.inLen.toNat) :
    exec .freqScan s = .next (s.takeError .inLenRange s.inLen.toNat) ∧
      Failed s (s.takeError .inLenRange s.inLen.toNat) .inLenRange s.inLen := by
  rcases freqScanBody_cases s with ⟨-, hbody⟩ | ⟨hle, -⟩
  · simpa only [errInfoWord_toNat] using exec_of_raised (i := .freqScan) hbody
  · omega

/-- Taking an error changes no flag, table, store, result register or byte of OUT_MEM (60_exceptions.md R237). -/
theorem takeError_keepsResults (s : State) (e : ErrCode) (info : Nat) : KeepsResults s (s.takeError e info) :=
  ⟨rfl, rfl, rfl, rfl, ⟨rfl, rfl, rfl, rfl⟩, rfl, ⟨rfl, rfl⟩, rfl, rfl, rfl, fun _ => rfl⟩

/-- Settles O8: the body counts the input bytes or raises IN_LEN_RANGE, and a count is at most IN_LEN, so it fits. -/
theorem freqScanCountsTheInput : Obligations.FreqScanCountsTheInput := by
  intro s
  refine ⟨fun hlen => ?_, fun hlen => ?_⟩
  · obtain ⟨hexec, hsucceeded⟩ := exec_freqScan hlen
    have hcount (v : Byte) : (freqOf (freqScanned s) v).toNat = s.input.count v := by
      rw [freqOf, freqScanned_freq, countBytes_getElem, toNat_ofNat_count (input_length_lt s)]
    exact ⟨freqScanned s, hexec, hsucceeded, hcount, ⟨rfl, rfl, rfl, rfl⟩, ⟨rfl, rfl, rfl, rfl⟩, rfl, ⟨rfl, rfl⟩,
      rfl, rfl, rfl, fun _ => rfl⟩
  · obtain ⟨hexec, hfailed⟩ := exec_freqScan_range hlen
    exact ⟨_, hexec, hfailed, takeError_keepsResults s .inLenRange _, rfl⟩

/-- Settles O9: the three items hold of the table of counts of any input. -/
theorem freqScanTableProperties : Obligations.FreqScanTableProperties := by
  intro s hlen
  refine ⟨freqScanned s, (exec_freqScan hlen).1, ?_, fun v => ?_, fun u hu hperm => ?_⟩
  · rw [freqScanned_freq, freqTotal_countBytes (input_length_lt s), State.input, inBytes_length]
  · rw [freqOf, freqScanned_freq, countBytes_getElem]
    exact ofNat_count_ne_zero_iff (input_length_lt s) v
  · exact ⟨freqScanned u, (exec_freqScan hu).1, countBytes_perm hperm⟩

end Sys2Proof.Machine
end

section
/-! PROOFS. The parts of BUILD_TREE one by one: the weight check, the leaves, the extraction of the least key, and the
store (41_tree_builder.md rules R150 to R153). -/

namespace Sys2Proof.Machine

/-! The weight check (R150 part 1, R151). -/

/-- A table whose sum fits 32 bits passes the check. -/
theorem overflowSymbol_eq_none {fs : List Word} {sym total : Nat}
    (h : total + (fs.map BitVec.toNat).sum ≤ 0xFFFFFFFF) : overflowSymbol fs sym total = none := by
  induction fs generalizing sym total with
  | nil => rfl
  | cons f fs ih =>
    rw [List.map_cons, List.sum_cons] at h
    rw [overflowSymbol, if_neg (by omega)]
    exact ih (by omega)

/-- The check names the symbol `j` places on when the sum passes the limit with it and not before it. -/
theorem overflowSymbol_eq_some {fs : List Word} {sym total j : Nat}
    (hbelow : total + ((fs.take j).map BitVec.toNat).sum ≤ 0xFFFFFFFF)
    (habove : 0xFFFFFFFF < total + ((fs.take (j + 1)).map BitVec.toNat).sum) :
    overflowSymbol fs sym total = some (sym + j) := by
  induction fs generalizing sym total j with
  | nil =>
    rw [List.take_nil] at hbelow habove
    omega
  | cons f fs ih =>
    cases j with
    | zero => exact if_pos (by simpa using habove)
    | succ j =>
      simp only [List.take_succ_cons, List.map_cons, List.sum_cons, ← Nat.add_assoc] at hbelow habove
      rw [overflowSymbol, if_neg (by omega), ih hbelow habove]
      congr 1
      omega

theorem freqTotal_eq_sum (freq : Vector Word 256) : freqTotal freq = (freq.toList.map BitVec.toNat).sum := by
  rw [freqTotal, freqSumBelow, List.take_of_length_le (by simp)]

/-! The leaves (R152). -/

/-- The leaves are the entries with a count, each with its index as symbol. -/
theorem leavesOf_eq_map (fs : List Word) (sym : Nat) :
    leavesOf fs sym =
      ((fs.zipIdx sym).filter fun x => decide (x.1 ≠ 0)).map fun x => .leaf (BitVec.ofNat 8 x.2) x.1 := by
  induction fs generalizing sym with
  | nil => rfl
  | cons f fs ih =>
    rw [leavesOf, List.zipIdx_cons, ih]
    by_cases hf : f = 0
    · rw [if_pos hf, List.filter_cons_of_neg (by simpa using hf)]
    · rw [if_neg hf, List.filter_cons_of_pos (by simpa using hf), List.map_cons]

/-- The table, entry by entry, in ascending order of the symbols. -/
theorem zipIdx_freq (freq : Vector Word 256) :
    freq.toList.zipIdx =
      ((List.range 256).map (BitVec.ofNat 8)).map fun v => (freq[v.toNat]'v.isLt, v.toNat) := by
  refine List.ext_getElem (by simp) fun k hk _ => ?_
  rw [List.length_zipIdx, Vector.length_toList] at hk
  simp [Nat.mod_eq_of_lt hk]

/-- There is one leaf for each symbol of the table, in ascending order, with its count. -/
theorem leavesOf_freq (freq : Vector Word 256) :
    leavesOf freq.toList 0 = (tableSymbols freq).map fun v => .leaf v (freq[v.toNat]'v.isLt) := by
  rw [leavesOf_eq_map, zipIdx_freq, List.filter_map, List.map_map, tableSymbols]
  simp [Function.comp_def]

/-- The leaves weigh what the counts sum to. -/
theorem leavesOf_sum (fs : List Word) (sym : Nat) :
    ((leavesOf fs sym).map fun x => (nodeWeight x).toNat).sum = (fs.map BitVec.toNat).sum := by
  induction fs generalizing sym with
  | nil => rfl
  | cons f fs ih =>
    rw [leavesOf]
    by_cases hf : f = 0
    · rw [if_pos hf, ih, List.map_cons, List.sum_cons, hf]
      simp
    · rw [if_neg hf, List.map_cons, List.sum_cons, ih]
      rfl

theorem buildTree_nsym (freq : Vector Word 256) : (buildTree freq).nsym = (tableSymbols freq).length := by
  show (leavesOf freq.toList 0).length = _
  rw [leavesOf_freq, List.length_map]

/-! The priority queue (R153). -/

/-- The priority order compares the weights first, then the indices. -/
theorem QueueEntry.before_iff (x y : QueueEntry) :
    x.before y = true ↔ x.w.toNat < y.w.toNat ∨ (x.w.toNat = y.w.toNat ∧ x.ix < y.ix) := by
  simp [QueueEntry.before, BitVec.toNat_inj]

/-- A member of the queue is its weight and its index. -/
theorem QueueEntry.ext {x y : QueueEntry} (hw : x.w = y.w) (hix : x.ix = y.ix) : x = y := by
  cases x
  cases y
  cases hw
  cases hix
  rfl

/-- What extraction takes out is a member that no other member precedes. -/
theorem extractLeast_spec {q rest : List QueueEntry} {a : QueueEntry} (h : extractLeast q = some (a, rest)) :
    q.Perm (a :: rest) ∧ ∀ y ∈ rest, ¬ y.before a = true := by
  induction q generalizing a rest with
  | nil => cases h
  | cons x xs ih =>
    rw [extractLeast] at h
    cases hxs : extractLeast xs with
    | none =>
      rcases extractLeast_cases xs with ⟨rfl, -⟩ | ⟨_, _, hsome, -⟩
      · cases h
        exact ⟨.refl _, nofun⟩
      · cases hsome.symm.trans hxs
    | some found =>
      obtain ⟨y, ys⟩ := found
      obtain ⟨hperm, hleast⟩ := ih hxs
      simp only [QueueEntry.before_iff] at hleast ⊢
      simp only [hxs] at h
      split at h
      next hyx =>
        cases h
        rw [QueueEntry.before_iff] at hyx
        refine ⟨(hperm.cons x).trans (.swap _ x ys), fun z hz => ?_⟩
        rcases List.mem_cons.1 hz with rfl | hz
        · omega
        · exact hleast z hz
      next hyx =>
        cases h
        rw [QueueEntry.before_iff] at hyx
        refine ⟨hperm.cons x, fun z hz => ?_⟩
        rcases List.mem_cons.1 hz with rfl | hz
        · exact hyx
        · have := hleast z hz
          omega

/-- The node a merge makes of the member extracted first and the one extracted second (R154). -/
def mergedNode (a b : QueueEntry) : Node := .internal (a.w + b.w) (BitVec.ofNat 9 a.ix) (BitVec.ofNat 9 b.ix)

/-- One round of the loop stops, or merges two members `a` and `b` that no other member precedes, `b` not before `a`. -/
theorem mergeLoop_succ_cases (fuel : Nat) (q : List QueueEntry) (nodes : List Node) :
    mergeLoop (fuel + 1) q nodes = (nodes, q) ∨
    ∃ a b rest, q.Perm (a :: b :: rest) ∧ ¬ b.before a = true ∧ (∀ x ∈ rest, ¬ x.before b = true) ∧
      mergeLoop (fuel + 1) q nodes =
        mergeLoop fuel (⟨a.w + b.w, nodes.length⟩ :: rest) (nodes ++ [mergedNode a b]) := by
  rcases extractLeast_cases q with ⟨-, ha⟩ | ⟨a, q1, ha, -⟩
  · exact .inl (by simp only [mergeLoop, ha])
  rcases extractLeast_cases q1 with ⟨-, hb⟩ | ⟨b, rest, hb, -⟩
  · exact .inl (by simp only [mergeLoop, ha, hb])
  · obtain ⟨hperm1, hleast1⟩ := extractLeast_spec ha
    obtain ⟨hperm2, hleast2⟩ := extractLeast_spec hb
    exact .inr ⟨a, b, rest, hperm1.trans (hperm2.cons a), hleast1 b (hperm2.mem_iff.2 (List.mem_cons_self ..)),
      hleast2, by simp only [mergeLoop, ha, hb, mergedNode]⟩

/-- Merging only appends nodes. -/
theorem isPrefix_mergeLoop (fuel : Nat) (q : List QueueEntry) (nodes : List Node) :
    nodes <+: (mergeLoop fuel q nodes).1 := by
  induction fuel generalizing q nodes with
  | zero => exact List.prefix_refl nodes
  | succ fuel ih =>
    rcases mergeLoop_succ_cases fuel q nodes with heq | ⟨a, b, rest, -, -, -, heq⟩
    · rw [heq]
    · rw [heq]
      exact (List.prefix_append nodes _).trans (ih _ _)

/-! The store. -/

/-- The node store begins with the nodes of a list. -/
def Stores (t : State) (nodes : List Node) : Prop := ∀ k, ∀ h : k < nodes.length, nodeNo t k = nodes[k]

theorem Stores.of_isPrefix {t : State} {nodes built : List Node} (h : Stores t built) (hpre : nodes <+: built) :
    Stores t nodes := fun k hk => by
  rw [h k (hk.trans_le hpre.length_le), hpre.getElem hk]

/-- Nodes that are the first ones of the store are what NODE reads. -/
theorem stores_of_take {t : State} {nodes : List Node} (h : t.nodes.toList.take nodes.length = nodes) :
    Stores t nodes := fun k hk => by
  have hlen : nodes.length ≤ 511 := by
    rw [← h, List.length_take, Vector.length_toList]
    exact Nat.min_le_right ..
  have hix : (BitVec.ofNat 9 k).toNat = k := Nat.mod_eq_of_lt (by omega)
  have hget : nodes[k] = t.nodes.toList[k]'(by rw [Vector.length_toList]; omega) :=
    (List.getElem_of_eq h.symm hk).trans List.getElem_take
  rw [hget, nodeNo, nodeAt, dif_pos (by omega)]
  simp [hix]

end Sys2Proof.Machine
end

section
/-! PROOFS. The merging of BUILD_TREE (41_tree_builder.md rules R153 to R155): the invariant of the priority queue,
and the tree that a store of the built nodes holds. -/

namespace Sys2Proof.Machine

/-! The queue in terms of the store. -/

/-- An index below 512 fits its 9 bits. -/
theorem toNat_nodeIx {i : Nat} (h : i < 512) : (BitVec.ofNat 9 i).toNat = i := Nat.mod_eq_of_lt h

/-- The children of a node made of two indices below 512 are these two. -/
theorem hasChild_internal_iff {w : Word} {l r i : Nat} (hl : l < 512) (hr : r < 512) :
    hasChild (.internal w (BitVec.ofNat 9 l) (BitVec.ofNat 9 r)) i = true ↔ i = l ∨ i = r := by
  simp only [hasChild, toNat_nodeIx hl, toNat_nodeIx hr, Bool.or_eq_true, beq_iff_eq, @eq_comm Nat i]

/-- A merge puts its node into the queue and takes the node's children out. -/
theorem inQueueAt_succ_iff {t : State} {n i : Nat}
    (hbelow : ∀ m ≤ n, ∀ j, hasChild (nodeNo t m) j = true → j < m) :
    inQueueAt t (n + 1) i ↔ i = n ∨ (inQueueAt t n i ∧ hasChild (nodeNo t n) i = false) := by
  constructor
  · rintro ⟨hi, hparent⟩
    by_cases hin : i = n
    · exact .inl hin
    · exact .inr ⟨⟨by omega, fun m hm => hparent m (by omega)⟩, hparent n (by omega)⟩
  · rintro (rfl | ⟨⟨hi, hparent⟩, hn⟩)
    · refine ⟨by omega, fun m hm => ?_⟩
      by_contra hchild
      have := hbelow m (by omega) i (by simpa using hchild)
      omega
    · refine ⟨by omega, fun m hm => ?_⟩
      rcases Nat.lt_succ_iff_lt_or_eq.1 hm with hm | rfl
      · exact hparent m hm
      · exact hn

/-- Node `n` is a merge of the two least members of the queue, as 41_tree_builder.md R153 and R154 have it. -/
def MergesTheTwoLeast (t : State) (n : Nat) : Prop :=
  ∃ l r w, nodeNo t n = .internal w (BitVec.ofNat 9 l) (BitVec.ofNat 9 r) ∧
    inQueueAt t n l ∧ inQueueAt t n r ∧ keyLess t l r ∧
    (∀ i, inQueueAt t n i → i ≠ l → i ≠ r → keyLess t r i) ∧
    w.toNat = (nodeWeight (nodeNo t l)).toNat + (nodeWeight (nodeNo t r)).toNat

/-- The invariant of the merging when `k` leaves of the sum `total` have grown to `n` nodes of the store and `q` is
the priority queue: `q` lists the nodes without a parent, which weigh `total` together, and every node from `k` on is
a merge of the two least. -/
structure Merging (t : State) (k total n : Nat) (q : List QueueEntry) : Prop where
  nodup : q.Nodup
  mem_iff : ∀ x : QueueEntry, x ∈ q ↔ inQueueAt t n x.ix ∧ x.w = nodeWeight (nodeNo t x.ix)
  sum_eq : (q.map fun x => x.w.toNat).sum = total
  weight_le : ∀ i < n, (nodeWeight (nodeNo t i)).toNat ≤ total
  child_inQueue : ∀ m < n, ∀ i, hasChild (nodeNo t m) i = true → inQueueAt t m i
  merges : ∀ m, k ≤ m → m < n → MergesTheTwoLeast t m

namespace Merging

variable {t : State} {k total n : Nat} {q : List QueueEntry}

/-- A member of the queue is known by its index. -/
theorem eq_of_ix_eq (h : Merging t k total n q) {x y : QueueEntry} (hx : x ∈ q) (hy : y ∈ q) (hix : x.ix = y.ix) :
    x = y := by
  obtain ⟨-, hxw⟩ := (h.mem_iff x).1 hx
  obtain ⟨-, hyw⟩ := (h.mem_iff y).1 hy
  rw [hix, ← hyw] at hxw
  exact QueueEntry.ext hxw hix

/-- Of two members of the queue the one that the other does not precede has the smaller key. -/
theorem keyLess_of_not_before (h : Merging t k total n q) {x y : QueueEntry} (hx : x ∈ q) (hy : y ∈ q)
    (hne : x ≠ y) (hbefore : ¬ y.before x = true) : keyLess t x.ix y.ix := by
  obtain ⟨-, hxw⟩ := (h.mem_iff x).1 hx
  obtain ⟨-, hyw⟩ := (h.mem_iff y).1 hy
  have hix : x.ix ≠ y.ix := fun hix => hne (h.eq_of_ix_eq hx hy hix)
  rw [QueueEntry.before_iff] at hbefore
  rw [keyLess, ← hxw, ← hyw, ← BitVec.toNat_inj]
  omega

/-- At the start the leaves are the members of the queue. -/
theorem of_leaves {leaves : List Node} (hstores : Stores t leaves)
    (hleaf : ∀ m < leaves.length, ∀ i, hasChild (nodeNo t m) i = false) :
    Merging t leaves.length (leaves.map fun x => (nodeWeight x).toNat).sum leaves.length
      (leaves.zipIdx.map fun x => ⟨nodeWeight x.1, x.2⟩) where
  nodup := by
    refine .of_map QueueEntry.ix ?_
    have hix : (leaves.zipIdx.map fun x => QueueEntry.ix ⟨nodeWeight x.1, x.2⟩) = List.range' 0 leaves.length :=
      List.zipIdx_map_snd 0 leaves
    rw [List.map_map, Function.comp_def, hix]
    exact List.nodup_range'
  mem_iff x := by
    have hmem (i : Nat) : inQueueAt t leaves.length i ↔ i < leaves.length :=
      ⟨fun hi => hi.1, fun hi => ⟨hi, fun m hm => hleaf m hm i⟩⟩
    obtain ⟨w, i⟩ := x
    rw [hmem]
    constructor
    · intro hx
      obtain ⟨⟨node, i'⟩, hnode, heq⟩ := List.mem_map.1 hx
      cases heq
      obtain ⟨hi, hget⟩ := List.getElem?_eq_some_iff.1 (List.mem_zipIdx_iff_getElem?.1 hnode)
      exact ⟨hi, by rw [hstores _ hi, hget]⟩
    · rintro ⟨hi, hw⟩
      refine List.mem_map.2 ⟨(leaves[i], i), List.mem_zipIdx_iff_getElem?.2 (List.getElem?_eq_getElem hi), ?_⟩
      rw [← hstores i hi, ← hw]
  sum_eq := by
    rw [List.map_map]
    have hfst := congrArg (fun l : List Node => (l.map fun x => (nodeWeight x).toNat).sum)
      (List.zipIdx_map_fst 0 leaves)
    rwa [List.map_map] at hfst
  weight_le i hi := by
    rw [hstores i hi]
    exact List.le_sum_of_mem (List.mem_map_of_mem (List.getElem_mem hi))
  child_inQueue m hm i hi := by rw [hleaf m hm i] at hi; cases hi
  merges m hkm hm := by omega

section
variable {a b : QueueEntry} {rest : List QueueEntry} (h : Merging t k total n q) (hperm : q.Perm (a :: b :: rest))
include h hperm

/-- The others are the members but the two. -/
theorem mem_rest_iff (x : QueueEntry) : x ∈ rest ↔ x ∈ q ∧ x ≠ a ∧ x ≠ b := by
  have hnodup := hperm.nodup_iff.1 h.nodup
  rw [List.nodup_cons, List.nodup_cons, List.mem_cons, not_or] at hnodup
  obtain ⟨⟨-, harest⟩, hbrest, -⟩ := hnodup
  rw [hperm.mem_iff, List.mem_cons, List.mem_cons]
  constructor
  · intro hx
    exact ⟨.inr (.inr hx), fun hxa => harest (hxa ▸ hx), fun hxb => hbrest (hxb ▸ hx)⟩
  · rintro ⟨rfl | rfl | hx, hxa, hxb⟩
    · exact absurd rfl hxa
    · exact absurd rfl hxb
    · exact hx

/-- The weights of the queue include those of the two members. -/
theorem sum_split : a.w.toNat + (b.w.toNat + (rest.map fun x => x.w.toNat).sum) = total := by
  rw [← h.sum_eq, (hperm.map fun x => x.w.toNat).sum_eq]
  rfl

/-- No addition of weights overflows while the total fits 32 bits (R151). -/
theorem toNat_add_weights (htotal : total ≤ 0xFFFFFFFF) : (a.w + b.w).toNat = a.w.toNat + b.w.toNat := by
  have hsum := h.sum_split hperm
  rw [BitVec.toNat_add]
  exact Nat.mod_eq_of_lt (by omega)

/-- A node made of the two least members, the least to the left, is a merge of the two least (R154). -/
theorem mergesTheTwoLeast (htotal : total ≤ 0xFFFFFFFF) (hab : ¬ b.before a = true)
    (hleast : ∀ x ∈ rest, ¬ x.before b = true)
    (hnode : nodeNo t n = mergedNode a b) :
    MergesTheTwoLeast t n := by
  have hne : a ≠ b := (List.pairwise_cons.1 (hperm.nodup_iff.1 h.nodup)).1 b (List.mem_cons_self ..)
  have ha : a ∈ q := hperm.mem_iff.2 (by simp)
  have hb : b ∈ q := hperm.mem_iff.2 (by simp)
  obtain ⟨haqueue, haw⟩ := (h.mem_iff a).1 ha
  obtain ⟨hbqueue, hbw⟩ := (h.mem_iff b).1 hb
  refine ⟨a.ix, b.ix, a.w + b.w, hnode, haqueue, hbqueue, h.keyLess_of_not_before ha hb hne hab, ?_, ?_⟩
  · intro i hi hia hib
    have hx : ⟨nodeWeight (nodeNo t i), i⟩ ∈ q := (h.mem_iff _).2 ⟨hi, rfl⟩
    have hxrest := (h.mem_rest_iff hperm _).2
      ⟨hx, fun hxa => hia (congrArg QueueEntry.ix hxa), fun hxb => hib (congrArg QueueEntry.ix hxb)⟩
    exact h.keyLess_of_not_before hb hx (fun hbx => hib (congrArg QueueEntry.ix hbx).symm) (hleast _ hxrest)
  · rw [h.toNat_add_weights hperm htotal, haw, hbw]

/-- The queue after the merge lists the nodes that then have no parent. -/
theorem mem_merged_iff {w : Word} (hchild : ∀ i, hasChild (nodeNo t n) i = true ↔ i = a.ix ∨ i = b.ix)
    (hw : w = nodeWeight (nodeNo t n)) (x : QueueEntry) :
    x ∈ ⟨w, n⟩ :: rest ↔ inQueueAt t (n + 1) x.ix ∧ x.w = nodeWeight (nodeNo t x.ix) := by
  have ha : a ∈ q := hperm.mem_iff.2 (by simp)
  have hb : b ∈ q := hperm.mem_iff.2 (by simp)
  have hbelow : ∀ m ≤ n, ∀ j, hasChild (nodeNo t m) j = true → j < m := by
    intro m hm j hj
    rcases Nat.lt_or_eq_of_le hm with hm | rfl
    · exact (h.child_inQueue m hm j hj).1
    · rcases (hchild j).1 hj with rfl | rfl
      · exact ((h.mem_iff a).1 ha).1.1
      · exact ((h.mem_iff b).1 hb).1.1
  rw [List.mem_cons, h.mem_rest_iff hperm, inQueueAt_succ_iff hbelow, ← Bool.not_eq_true, hchild, not_or]
  constructor
  · rintro (rfl | ⟨hx, hxa, hxb⟩)
    · exact ⟨.inl rfl, hw⟩
    · obtain ⟨hxqueue, hxw⟩ := (h.mem_iff x).1 hx
      exact ⟨.inr ⟨hxqueue, fun hix => hxa (h.eq_of_ix_eq hx ha hix), fun hix => hxb (h.eq_of_ix_eq hx hb hix)⟩, hxw⟩
  · rintro ⟨hx | ⟨hxqueue, hxa, hxb⟩, hxw⟩
    · exact .inl (QueueEntry.ext (by rw [hxw, hw, hx]) hx)
    · exact .inr ⟨(h.mem_iff x).2 ⟨hxqueue, hxw⟩, fun hx => hxa (hx ▸ rfl), fun hx => hxb (hx ▸ rfl)⟩

/-- One merge keeps the invariant (R154). -/
theorem merge (htotal : total ≤ 0xFFFFFFFF) (hn : n < 512) (hab : ¬ b.before a = true)
    (hleast : ∀ x ∈ rest, ¬ x.before b = true)
    (hnode : nodeNo t n = mergedNode a b) :
    Merging t k total (n + 1) (⟨a.w + b.w, n⟩ :: rest) := by
  have haqueue := ((h.mem_iff a).1 (hperm.mem_iff.2 (by simp))).1
  have hbqueue := ((h.mem_iff b).1 (hperm.mem_iff.2 (by simp))).1
  have hchild (i : Nat) : hasChild (nodeNo t n) i = true ↔ i = a.ix ∨ i = b.ix := by
    rw [hnode, mergedNode, hasChild_internal_iff (haqueue.1.trans hn) (hbqueue.1.trans hn)]
  have hweight : a.w + b.w = nodeWeight (nodeNo t n) := by rw [hnode, mergedNode, nodeWeight]
  have hsum := h.sum_split hperm
  have hw := h.toNat_add_weights hperm htotal
  refine ⟨List.nodup_cons.2 ⟨fun hx => ?_, ?_⟩, h.mem_merged_iff hperm hchild hweight, ?_, ?_, ?_, ?_⟩
  · have hlt := ((h.mem_iff _).1 ((h.mem_rest_iff hperm _).1 hx).1).1.1
    exact Nat.lt_irrefl n hlt
  · exact (hperm.nodup_iff.1 h.nodup).of_cons.of_cons
  · rw [List.map_cons, List.sum_cons, hw, Nat.add_assoc, hsum]
  · intro i hi
    rcases Nat.lt_succ_iff_lt_or_eq.1 hi with hi | rfl
    · exact h.weight_le i hi
    · rw [← hweight, hw]
      omega
  · intro m hm i hi
    rcases Nat.lt_succ_iff_lt_or_eq.1 hm with hm | rfl
    · exact h.child_inQueue m hm i hi
    · rcases (hchild i).1 hi with rfl | rfl
      · exact haqueue
      · exact hbqueue
  · intro m hkm hm
    rcases Nat.lt_succ_iff_lt_or_eq.1 hm with hm | rfl
    · exact h.merges m hkm hm
    · exact h.mergesTheTwoLeast hperm htotal hab hleast hnode

end

/-- The whole loop keeps the invariant, in a store that begins with the nodes it ends with. -/
theorem loop {fuel : Nat} {nodes : List Node} (h : Merging t k total nodes.length q) (htotal : total ≤ 0xFFFFFFFF)
    (hlen : (mergeLoop fuel q nodes).1.length ≤ 511) (hstores : Stores t (mergeLoop fuel q nodes).1) :
    Merging t k total (mergeLoop fuel q nodes).1.length (mergeLoop fuel q nodes).2 := by
  induction fuel generalizing q nodes with
  | zero => exact h
  | succ fuel ih =>
    rcases mergeLoop_succ_cases fuel q nodes with heq | ⟨a, b, rest, hperm, hab, hleast, heq⟩ <;>
      rw [heq] at hlen hstores ⊢
    · exact h
    · have hpre := isPrefix_mergeLoop fuel (⟨a.w + b.w, nodes.length⟩ :: rest) (nodes ++ [mergedNode a b])
      have hnext : (nodes ++ [mergedNode a b]).length = nodes.length + 1 := List.length_append
      have hnode : nodeNo t nodes.length = mergedNode a b := by
        rw [hstores.of_isPrefix hpre _ (by omega)]
        simp
      have hn := hpre.length_le
      refine ih ?_ hlen hstores
      rw [hnext]
      exact h.merge hperm htotal (by omega) hab hleast hnode

/-! What the invariant says of a queue of one member, the root. -/

/-- The only member left is the last node. -/
theorem singleton_ix {x : QueueEntry} (h : Merging t k total n [x]) : x.ix = n - 1 := by
  have hx := ((h.mem_iff x).1 (List.mem_singleton_self x)).1
  have hlast : inQueueAt t n (n - 1) := by
    refine ⟨by have := hx.1; omega, fun m hm => ?_⟩
    by_contra hchild
    have := (h.child_inQueue m hm (n - 1) (by simpa using hchild)).1
    omega
  have hmem : ⟨nodeWeight (nodeNo t (n - 1)), n - 1⟩ ∈ [x] := (h.mem_iff _).2 ⟨hlast, rfl⟩
  exact (congrArg QueueEntry.ix (List.mem_singleton.1 hmem)).symm

/-- Every node but the root has exactly one parent (R159 item 3). -/
theorem exists_only_parent {x : QueueEntry} (h : Merging t k total n [x]) {i : Nat} (hi : i < n) (hix : i ≠ x.ix) :
    ∃ m, m < n ∧ hasChild (nodeNo t m) i = true ∧ ∀ m', m' < n → hasChild (nodeNo t m') i = true → m' = m := by
  have hout : ¬ inQueueAt t n i := fun hqueue => by
    have hmem : ⟨nodeWeight (nodeNo t i), i⟩ ∈ [x] := (h.mem_iff _).2 ⟨hqueue, rfl⟩
    exact hix (congrArg QueueEntry.ix (List.mem_singleton.1 hmem))
  obtain ⟨m, hm, hchild⟩ : ∃ m < n, hasChild (nodeNo t m) i = true := by
    by_contra hnone
    exact hout ⟨hi, fun m hm => by simpa using fun hc => hnone ⟨m, hm, hc⟩⟩
  have hearlier {m m' : Nat} (hm' : m' < n) (hc : hasChild (nodeNo t m) i = true)
      (hc' : hasChild (nodeNo t m') i = true) : ¬ m < m' := fun hlt => by
    cases hc.symm.trans ((h.child_inQueue m' hm' i hc').2 m hlt)
  refine ⟨m, hm, hchild, fun m' hm' hchild' => ?_⟩
  have := hearlier hm' hchild hchild'
  have := hearlier hm hchild' hchild
  omega

/-- The root weighs the total (R159 item 4). -/
theorem singleton_weight {x : QueueEntry} (h : Merging t k total n [x]) :
    (nodeWeight (nodeNo t x.ix)).toNat = total := by
  rw [← ((h.mem_iff x).1 (List.mem_singleton_self x)).2, ← h.sum_eq]
  simp

end Merging
end Sys2Proof.Machine
end

section
/-! PROOFS. BUILD_TREE (41_tree_builder.md rules R150 to R159). -/

namespace Sys2Proof.Machine

/-! The tree of a table, in a store of its nodes. -/

/-- What is left of the priority queue when the merging is over. -/
def finalQueue (freq : Vector Word 256) : List QueueEntry :=
  (mergeLoop (leavesOf freq.toList 0).length
    ((leavesOf freq.toList 0).zipIdx.map fun x => ⟨nodeWeight x.1, x.2⟩) (leavesOf freq.toList 0)).2

/-- A table with a symbol leaves one member, the root (R155). -/
theorem finalQueue_eq_singleton {freq : Vector Word 256} (hsyms : tableSymbols freq ≠ []) :
    ∃ x, finalQueue freq = [x] ∧ (buildTree freq).root = BitVec.ofNat 9 x.ix := by
  have hlen : (finalQueue freq).length = 1 := by
    have hpos := List.length_pos_iff.2 hsyms
    rw [finalQueue, (mergeLoop_length ..).2, List.length_map, List.length_zipIdx, leavesOf_freq, List.length_map]
    omega
  obtain ⟨x, hx⟩ := List.length_eq_one_iff.1 hlen
  refine ⟨x, hx, ?_⟩
  show (match finalQueue freq with
    | [] => NIL
    | x :: _ => BitVec.ofNat 9 x.ix) = _
  rw [hx]

theorem buildTree_root_empty {freq : Vector Word 256} (hsyms : tableSymbols freq = []) :
    (buildTree freq).root = NIL := by
  simp [buildTree, leavesOf_freq, hsyms, mergeLoop]

/-- The first nodes of the tree are the leaves (R152). -/
theorem Stores.leaves {t : State} {freq : Vector Word 256} (h : Stores t (buildTree freq).nodes) :
    Stores t (leavesOf freq.toList 0) := h.of_isPrefix (isPrefix_mergeLoop ..)

/-- Leaf `k` holds the `k`-th symbol of the table and its count (R152). -/
theorem Stores.leaf {t : State} {freq : Vector Word 256} (h : Stores t (buildTree freq).nodes) {k : Nat}
    (hk : k < (tableSymbols freq).length) :
    nodeNo t k = .leaf (tableSymbols freq)[k] (freq[(tableSymbols freq)[k].toNat]'(tableSymbols freq)[k].isLt) := by
  have hleaves := h.leaves
  rw [leavesOf_freq] at hleaves
  rw [hleaves k (by simpa using hk), List.getElem_map]

/-- A store of the tree's nodes meets the invariant of the merging, with the final queue. -/
theorem Stores.merging {t : State} {freq : Vector Word 256} (h : Stores t (buildTree freq).nodes)
    (htotal : freqTotal freq ≤ 0xFFFFFFFF) :
    Merging t (buildTree freq).nsym (freqTotal freq) (buildTree freq).nodes.length (finalQueue freq) := by
  have hleaf : ∀ m < (leavesOf freq.toList 0).length, ∀ i, hasChild (nodeNo t m) i = false := by
    intro m hm i
    rw [leavesOf_freq, List.length_map] at hm
    rw [h.leaf hm, hasChild]
  have hstart := Merging.of_leaves h.leaves hleaf
  rw [leavesOf_sum, ← freqTotal_eq_sum] at hstart
  exact hstart.loop htotal (buildTree_nodes_length_le freq) h

/-- A table with a symbol has its last node as root, the only node without a parent. -/
theorem Stores.exists_root {t : State} {freq : Vector Word 256} (h : Stores t (buildTree freq).nodes)
    (htotal : freqTotal freq ≤ 0xFFFFFFFF) (hsyms : tableSymbols freq ≠ []) :
    ∃ x, (buildTree freq).root = BitVec.ofNat 9 x.ix ∧ x.ix = 2 * (tableSymbols freq).length - 2 ∧
      Merging t (buildTree freq).nsym (freqTotal freq) (buildTree freq).nodes.length [x] := by
  obtain ⟨x, hqueue, hroot⟩ := finalQueue_eq_singleton hsyms
  have hmerging := h.merging htotal
  rw [hqueue] at hmerging
  refine ⟨x, hroot, ?_, hmerging⟩
  rw [hmerging.singleton_ix, buildTree_nodes_length, buildTree_nsym, Nat.sub_sub]

/-! The command. -/

/-- The state BUILD_TREE ends in when the total fits 32 bits. -/
def treeBuilt (s : State) : State :=
  State.finish { s with
    nodes := storeNodes s.nodes (buildTree s.freq).nodes
    nsym := BitVec.ofNat 9 (buildTree s.freq).nsym
    nnodes := BitVec.ofNat 9 (buildTree s.freq).nodes.length
    root := (buildTree s.freq).root
    treeValid := true
    codesValid := false
    packed := false } .none 0 false

/-- Within 32 bits, BUILD_TREE succeeds. -/
theorem exec_buildTree {s : State} (htotal : freqTotal s.freq ≤ 0xFFFFFFFF) :
    exec .buildTree s = .next (treeBuilt s) ∧ Succeeded s (treeBuilt s) := by
  rcases buildTreeBody_cases s with ⟨sym, hsome, -⟩ | ⟨-, hbody⟩
  · have hnone := overflowSymbol_eq_none (sym := 0) (total := 0) (fs := s.freq.toList)
      (by rwa [Nat.zero_add, ← freqTotal_eq_sum])
    rw [hnone] at hsome
    cases hsome
  · exact exec_of_done hbody

theorem treeBuilt_stores (s : State) : Stores (treeBuilt s) (buildTree s.freq).nodes :=
  stores_of_take (storeNodes_take (buildTree_nodes_length_le s.freq))

@[simp] theorem treeBuilt_root (s : State) : (treeBuilt s).root = (buildTree s.freq).root := rfl

theorem treeBuilt_nsym (s : State) : (treeBuilt s).nsym.toNat = (buildTree s.freq).nsym :=
  toNat_nodeIx (by have := buildTree_nsym_le s.freq; omega)

theorem treeBuilt_nnodes (s : State) : (treeBuilt s).nnodes.toNat = (buildTree s.freq).nodes.length :=
  toNat_nodeIx (by have := buildTree_nodes_length_le s.freq; omega)

/-- Settles O10: the weight check stops at the symbol, and its error changes nothing else. -/
theorem buildTreeReportsWeightOverflow : Obligations.BuildTreeReportsWeightOverflow := by
  intro s sym hsym hbelow habove
  have hoverflow := overflowSymbol_eq_some (fs := s.freq.toList) (sym := 0) (total := 0) (j := sym)
    (by rwa [Nat.zero_add]) (by rwa [Nat.zero_add])
  rw [Nat.zero_add] at hoverflow
  rcases buildTreeBody_cases s with ⟨sym', hsome, hbody⟩ | ⟨hnone, -⟩
  · cases hoverflow.symm.trans hsome
    obtain ⟨hexec, hfailed⟩ := exec_of_raised (i := .buildTree) hbody
    rw [errInfoWord_of_lt (by omega)] at hfailed
    exact ⟨_, hexec, hfailed, takeError_keepsResults s .weightOverflow sym, rfl⟩
  · cases hoverflow.symm.trans hnone

/-- Settles O11: the leaves are the table's symbols, the root is the last node, and the rest is the body's frame. -/
theorem buildTreeMakesLeavesAndCounts : Obligations.BuildTreeMakesLeavesAndCounts := by
  intro s htotal
  obtain ⟨hexec, hsucceeded⟩ := exec_buildTree htotal
  have hstores := treeBuilt_stores s
  refine ⟨treeBuilt s, hexec, hsucceeded, rfl, rfl, rfl, rfl, ?_, ?_, ?_, fun k hk => hstores.leaf hk, rfl, rfl,
    ⟨rfl, rfl⟩, rfl, rfl, rfl, fun _ => rfl⟩
  · rw [treeBuilt_nsym, buildTree_nsym]
  · rw [treeBuilt_nnodes, buildTree_nodes_length, buildTree_nsym]
  · rw [treeBuilt_root]
    split
    next hempty => exact buildTree_root_empty hempty
    next hsyms =>
      obtain ⟨x, hroot, hix, -⟩ := hstores.exists_root htotal hsyms
      rw [hroot, hix]

/-- Settles O12: the invariant of the merging says it of every node from NSYM on. -/
theorem buildTreeMergesTheTwoLeast : Obligations.BuildTreeMergesTheTwoLeast := by
  intro s htotal
  refine ⟨treeBuilt s, (exec_buildTree htotal).1, fun n hk hn => ?_⟩
  rw [treeBuilt_nsym] at hk
  rw [treeBuilt_nnodes] at hn
  exact ((treeBuilt_stores s).merging htotal).merges n hk hn

/-- Settles O13: the root is the only node the final queue holds, so every other node has a parent; a second parent
would have taken it out of the queue twice. -/
theorem builtTreeHasSingleParents : Obligations.BuiltTreeHasSingleParents := by
  intro s htotal
  refine ⟨treeBuilt s, (exec_buildTree htotal).1, fun i hi hroot => ?_⟩
  rw [treeBuilt_nnodes] at hi ⊢
  have hsyms : tableSymbols s.freq ≠ [] := by
    rintro hempty
    rw [buildTree_nodes_length, buildTree_nsym, hempty] at hi
    cases hi
  obtain ⟨x, hx, hix, hmerging⟩ := (treeBuilt_stores s).exists_root htotal hsyms
  have hle := buildTree_nsym_le s.freq
  rw [buildTree_nsym] at hle
  rw [treeBuilt_root, hx, toNat_nodeIx (by omega)] at hroot
  exact hmerging.exists_only_parent hi hroot

/-- Settles O14: the queue weighs the total throughout, so its last member, the root, does. -/
theorem builtRootWeighsTheTotal : Obligations.BuiltRootWeighsTheTotal := by
  intro s htotal hsyms
  obtain ⟨x, hx, -, hmerging⟩ := (treeBuilt_stores s).exists_root htotal hsyms
  refine ⟨treeBuilt s, (exec_buildTree htotal).1, ?_, fun i hi => ?_⟩
  · rw [treeBuilt_root, hx]
    exact hmerging.singleton_weight
  · rw [treeBuilt_nnodes] at hi
    exact hmerging.weight_le i hi

end Sys2Proof.Machine
end

section
/-! PROOFS. Paths through the node store, and the walk of GEN_CODES over them (42_code_table.md rules R170 and
R171). -/

namespace Sys2Proof.Machine

/-! Paths (R171). -/

/-- A bit string leads from a node to another through internal nodes, 0 to the left and 1 to the right (R171). -/
inductive LeadsTo (nodes : Vector Node 511) : NodeIx → BitString → NodeIx → Prop
  | refl (i : NodeIx) : LeadsTo nodes i [] i
  | step {i j left right : NodeIx} {w : Word} {bit : Bool} {path : BitString}
      (hnode : nodeAt nodes i = .internal w left right)
      (hpath : LeadsTo nodes (if bit then right else left) path j) : LeadsTo nodes i (bit :: path) j

/-- A bit string leads from a node to a leaf of the symbol `v`. -/
def LeafPath (nodes : Vector Node 511) (i : NodeIx) (path : BitString) (v : Byte) : Prop :=
  ∃ j w, LeadsTo nodes i path j ∧ nodeAt nodes j = .leaf v w

variable {nodes : Vector Node 511} {i j k left right : NodeIx} {w : Word} {path rest : BitString} {v sym : Byte}

/-- A path is what the statements call a descent. -/
theorem LeadsTo.descend_eq (h : LeadsTo nodes i path j) : descend nodes i path = j := by
  induction h with
  | refl i => rfl
  | @step i j left right w bit path hnode hpath ih =>
    show descend nodes (childOf (nodeAt nodes i) bit) path = j
    rw [hnode]
    exact ih

/-- A path goes one step further at an internal node. -/
theorem LeadsTo.snoc (h : LeadsTo nodes i path j) (hnode : nodeAt nodes j = .internal w left right) (bit : Bool) :
    LeadsTo nodes i (path ++ [bit]) (if bit then right else left) := by
  induction h with
  | refl i => exact .step hnode (.refl _)
  | step hi hpath ih => exact .step hi (ih hnode)

/-- No path leaves a leaf. -/
theorem LeadsTo.of_leaf (h : LeadsTo nodes i path j) (hnode : nodeAt nodes i = .leaf v w) : path = [] ∧ j = i := by
  cases h with
  | refl i => exact ⟨rfl, rfl⟩
  | step hi hpath => cases hi.symm.trans hnode

/-- A longer path goes on from where a beginning of it leads. -/
theorem LeadsTo.of_append (h : LeadsTo nodes i path j) (hlong : LeadsTo nodes i (path ++ rest) k) :
    LeadsTo nodes j rest k := by
  induction h with
  | refl i => exact hlong
  | step hi hpath ih =>
    cases hlong with
    | step hi' hlong' =>
      cases hi.symm.trans hi'
      exact ih hlong'

/-- Paths to the leaves of two symbols: neither begins with the other, since no path leaves a leaf. -/
theorem LeafPath.eq_of_isPrefix {path' : BitString} {v' : Byte} (h : LeafPath nodes i path v)
    (h' : LeafPath nodes i path' v') (hpre : path <+: path') : v = v' := by
  obtain ⟨rest, rfl⟩ := hpre
  obtain ⟨j, w, hpath, hj⟩ := h
  obtain ⟨k, w', hlong, hk⟩ := h'
  obtain ⟨-, rfl⟩ := (hpath.of_append hlong).of_leaf hj
  cases hj.symm.trans hk
  rfl

/-- At a leaf the empty path leads to its symbol, and there is no other. -/
theorem leafPath_of_leaf (hnode : nodeAt nodes i = .leaf sym w) : LeafPath nodes i path v ↔ path = [] ∧ v = sym := by
  constructor
  · rintro ⟨j, w', hpath, hj⟩
    obtain ⟨rfl, rfl⟩ := hpath.of_leaf hnode
    cases hj.symm.trans hnode
    exact ⟨rfl, rfl⟩
  · rintro ⟨rfl, rfl⟩
    exact ⟨i, w, .refl i, hnode⟩

/-- At an internal node a path to a leaf is a bit and a path from the child it chooses. -/
theorem leafPath_of_internal (hnode : nodeAt nodes i = .internal w left right) :
    LeafPath nodes i path v ↔ ∃ bit rest, path = bit :: rest ∧ LeafPath nodes (if bit then right else left) rest v := by
  constructor
  · rintro ⟨j, w', hpath, hj⟩
    cases hpath with
    | refl => cases hj.symm.trans hnode
    | @step _ _ _ _ _ bit rest hi hrest =>
      cases hi.symm.trans hnode
      exact ⟨bit, rest, rfl, j, w', hrest, hj⟩
  · rintro ⟨bit, rest, rfl, j, w', hrest, hj⟩
    exact ⟨j, w', .step hnode hrest, hj⟩

/-! The code store. -/

@[simp] theorem codeOf_noCodes (v : Byte) : codeOf noCodes v = [] := tabulate_getElem ..

theorem codeOf_set (c : Vector BitString 256) (p : BitString) (sym v : Byte) :
    codeOf (c.set sym.toNat p sym.isLt) v = if v = sym then p else codeOf c v := by
  simp only [codeOf, Vector.getElem_set, BitVec.toNat_inj, eq_comm]

/-! The walk (R170). -/

theorem walkCodes_leaf (hnode : nodeAt nodes i = .leaf sym w) (fuel : Nat) (p : BitString)
    (c : Vector BitString 256) : walkCodes nodes (fuel + 1) i p c = c.set sym.toNat p sym.isLt := by
  simp only [walkCodes, hnode]

theorem walkCodes_internal (hnode : nodeAt nodes i = .internal w left right) (fuel : Nat) (p : BitString)
    (c : Vector BitString 256) :
    walkCodes nodes (fuel + 1) i p c =
      walkCodes nodes fuel right (p ++ [true]) (walkCodes nodes fuel left (p ++ [false]) c) := by
  simp only [walkCodes, hnode]

/-- The code of `v` is the path of the walk so far followed by a path from node `i` to a leaf of `v`. -/
def CodedBelow (nodes : Vector Node 511) (i : NodeIx) (p code : BitString) (v : Byte) : Prop :=
  ∃ path, code = p ++ path ∧ LeafPath nodes i path v

/-- A code below a child is a code below its parent. -/
theorem CodedBelow.of_child {bit : Bool} {p code : BitString} (hnode : nodeAt nodes i = .internal w left right)
    (h : CodedBelow nodes (if bit then right else left) (p ++ [bit]) code v) : CodedBelow nodes i p code v := by
  obtain ⟨path, rfl, hpath⟩ := h
  exact ⟨bit :: path, List.append_assoc .., (leafPath_of_internal hnode).2 ⟨bit, path, rfl, hpath⟩⟩

/-- The walk leaves a symbol's code as it was, or makes it a path to a leaf of the symbol. -/
theorem walkCodes_cases (fuel : Nat) (i : NodeIx) (p : BitString) (c : Vector BitString 256) (v : Byte) :
    codeOf (walkCodes nodes fuel i p c) v = codeOf c v ∨
      CodedBelow nodes i p (codeOf (walkCodes nodes fuel i p c) v) v := by
  induction fuel generalizing i p c with
  | zero => exact .inl rfl
  | succ fuel ih =>
    cases hnode : nodeAt nodes i with
    | leaf sym w =>
      rw [walkCodes_leaf hnode, codeOf_set]
      split
      next hv => exact .inr ⟨[], (List.append_nil p).symm, (leafPath_of_leaf hnode).2 ⟨rfl, hv⟩⟩
      next => exact .inl rfl
    | internal w left right =>
      rw [walkCodes_internal hnode]
      rcases ih right (p ++ [true]) (walkCodes nodes fuel left (p ++ [false]) c) with hright | hright
      · rw [hright]
        exact (ih left (p ++ [false]) c).imp_right (.of_child (bit := false) hnode)
      · exact .inr (.of_child (bit := true) hnode hright)

/-- A walk with fuel for a path to a leaf of a symbol gives the symbol a code. -/
theorem walkCodes_coded {fuel : Nat} (h : LeafPath nodes i path v) (hfuel : path.length < fuel) (p : BitString)
    (c : Vector BitString 256) : CodedBelow nodes i p (codeOf (walkCodes nodes fuel i p c) v) v := by
  induction fuel generalizing i path p c with
  | zero => omega
  | succ fuel ih =>
    cases hnode : nodeAt nodes i with
    | leaf sym w =>
      obtain ⟨-, rfl⟩ := (leafPath_of_leaf hnode).1 h
      rw [walkCodes_leaf hnode, codeOf_set, if_pos rfl]
      exact ⟨[], (List.append_nil p).symm, (leafPath_of_leaf hnode).2 ⟨rfl, rfl⟩⟩
    | internal w left right =>
      obtain ⟨bit, rest, rfl, hrest⟩ := (leafPath_of_internal hnode).1 h
      have hshort : rest.length < fuel := Nat.lt_of_succ_lt_succ hfuel
      rw [walkCodes_internal hnode]
      cases bit with
      | true => exact .of_child (bit := true) hnode (ih hrest hshort _ _)
      | false =>
        rcases walkCodes_cases fuel right (p ++ [true]) (walkCodes nodes fuel left (p ++ [false]) c) v with
          hright | hright
        · rw [hright]
          exact .of_child (bit := false) hnode (ih hrest hshort _ _)
        · exact .of_child (bit := true) hnode hright

/-! The codes of a tree (R170, R172, R173). -/

theorem codesOf_nil (nodes : Vector Node 511) : codesOf nodes NIL = noCodes := if_pos rfl

theorem codesOf_leaf {root : NodeIx} (hroot : root ≠ NIL) (hnode : nodeAt nodes root = .leaf sym w) :
    codesOf nodes root = noCodes.set sym.toNat [false] sym.isLt := by
  simp only [codesOf, if_neg hroot, hnode]

theorem codesOf_internal {root : NodeIx} (hroot : root ≠ NIL) (hnode : nodeAt nodes root = .internal w left right) :
    codesOf nodes root = walkCodes nodes 511 root [] noCodes := by
  simp only [codesOf, if_neg hroot, hnode]

/-- A single leaf has the code "0", and no other symbol a code (R172). -/
theorem codeOf_codesOf_leaf {root : NodeIx} (hroot : root ≠ NIL) (hnode : nodeAt nodes root = .leaf sym w) (v : Byte) :
    codeOf (codesOf nodes root) v = if v = sym then [false] else [] := by
  rw [codesOf_leaf hroot hnode, codeOf_set, codeOf_noCodes]

end Sys2Proof.Machine
end

section
/-! PROOFS. The tree of a table, in the node store, and the codes it gives (41_tree_builder.md rules R152 to R159,
42_code_table.md rules R170 to R174). -/

namespace Sys2Proof.Machine

theorem mem_tableSymbols_iff (freq : Vector Word 256) (v : Byte) :
    v ∈ tableSymbols freq ↔ freq[v.toNat]'v.isLt ≠ 0 := by
  have hrange : v ∈ (List.range 256).map (BitVec.ofNat 8) :=
    List.mem_map.2 ⟨v.toNat, List.mem_range.2 v.isLt, by simp⟩
  simp only [tableSymbols, List.mem_filter, hrange, true_and, decide_eq_true_eq]

theorem tableSymbols_length_le (freq : Vector Word 256) : (tableSymbols freq).length ≤ 256 :=
  buildTree_nsym freq ▸ buildTree_nsym_le freq

/-- The store holds the tree of a table with a symbol, as far as a walk over it depends on it: one leaf for each
symbol, first in the store (R152); above them up to the root internal nodes, made after their children (R154); and a
parent for every node but the root (R159 item 3). -/
structure TreeOf (nodes : Vector Node 511) (root : NodeIx) (freq : Vector Word 256) : Prop where
  root_eq : root.toNat = 2 * (tableSymbols freq).length - 2
  leaf : ∀ k, ∀ h : k < (tableSymbols freq).length,
    nodeAt nodes (BitVec.ofNat 9 k) =
      .leaf (tableSymbols freq)[k] (freq[(tableSymbols freq)[k].toNat]'(tableSymbols freq)[k].isLt)
  internal : ∀ i : NodeIx, (tableSymbols freq).length ≤ i.toNat → i.toNat ≤ root.toNat →
    ∃ w left right, nodeAt nodes i = .internal w left right ∧ left.toNat < i.toNat ∧ right.toNat < i.toNat
  parent : ∀ i : NodeIx, i.toNat < root.toNat → ∃ m : NodeIx, i.toNat < m.toNat ∧ m.toNat ≤ root.toNat ∧
    ∃ w left right, ∃ bit : Bool, nodeAt nodes m = .internal w left right ∧ (if bit then right else left) = i

theorem nodeAt_eq_nodeNo (s : State) (i : NodeIx) : nodeAt s.nodes i = nodeNo s i.toNat := by
  rw [nodeNo, BitVec.ofNat_toNat, BitVec.setWidth_eq]

/-- A node with a child is an internal node, and a bit chooses the child. -/
theorem exists_bit_of_hasChild {node : Node} {i : NodeIx} (h : hasChild node i.toNat = true) :
    ∃ w left right, ∃ bit : Bool, node = .internal w left right ∧ (if bit then right else left) = i := by
  cases node with
  | leaf sym w => cases h
  | internal w left right =>
    simp only [hasChild, Bool.or_eq_true, beq_iff_eq, BitVec.toNat_inj] at h
    rcases h with h | h
    · exact ⟨w, left, right, false, rfl, h⟩
    · exact ⟨w, left, right, true, rfl, h⟩

/-- The tree BUILD_TREE leaves for a table with a symbol. -/
theorem treeOf_of_treeFromFreq {s : State} (h : s.treeFromFreq) (hsyms : tableSymbols s.freq ≠ []) :
    TreeOf s.nodes s.root s.freq := by
  obtain ⟨htotal, -, -, hroot, htake⟩ := h
  have hstores := stores_of_take htake
  obtain ⟨x, hx, hix, hmerging⟩ := hstores.exists_root htotal hsyms
  have hle := tableSymbols_length_le s.freq
  have hpos := List.length_pos_iff.2 hsyms
  have hrootNat : s.root.toNat = 2 * (tableSymbols s.freq).length - 2 := by
    rw [hroot, hx, toNat_nodeIx (by omega), hix]
  have hlen : (buildTree s.freq).nodes.length = s.root.toNat + 1 := by
    rw [buildTree_nodes_length, buildTree_nsym, hrootNat]
    omega
  rw [hlen, buildTree_nsym] at hmerging
  refine ⟨hrootNat, fun k hk => hstores.leaf hk, fun i hi hiroot => ?_, fun i hi => ?_⟩
  · obtain ⟨l, r, w, hnode, hl, hr, -⟩ := hmerging.merges i.toNat hi (by omega)
    refine ⟨w, _, _, (nodeAt_eq_nodeNo s i).trans hnode, ?_, ?_⟩
    · rw [toNat_nodeIx (by have := hl.1; omega)]
      exact hl.1
    · rw [toNat_nodeIx (by have := hr.1; omega)]
      exact hr.1
  · obtain ⟨m, hm, hchild, -⟩ := hmerging.exists_only_parent (i := i.toNat) (by omega) (by omega)
    have hmNat : (BitVec.ofNat 9 m).toNat = m := toNat_nodeIx (by omega)
    have hlt := (hmerging.child_inQueue m hm i.toNat hchild).1
    exact ⟨BitVec.ofNat 9 m, by omega, by omega, exists_bit_of_hasChild hchild⟩

namespace TreeOf

variable {nodes : Vector Node 511} {root : NodeIx} {freq : Vector Word 256}

/-- A leaf of the tree holds a symbol of the table and its count. -/
theorem leaf_count (h : TreeOf nodes root freq) {i : NodeIx} (hi : i.toNat ≤ root.toNat) {v : Byte} {w : Word}
    (hnode : nodeAt nodes i = .leaf v w) : w = freq[v.toNat]'v.isLt ∧ w ≠ 0 := by
  by_cases hk : i.toNat < (tableSymbols freq).length
  · have hleaf := h.leaf i.toNat hk
    rw [BitVec.ofNat_toNat, BitVec.setWidth_eq, hnode] at hleaf
    cases hleaf
    exact ⟨rfl, (mem_tableSymbols_iff freq _).1 (List.getElem_mem hk)⟩
  · obtain ⟨w', left, right, hinternal, -⟩ := h.internal i (by omega) hi
    cases hinternal.symm.trans hnode

/-- A node with children is made after the leaves, and its children before it. -/
theorem internal_lt (h : TreeOf nodes root freq) {i left right : NodeIx} (hi : i.toNat ≤ root.toNat) {w : Word}
    (hnode : nodeAt nodes i = .internal w left right) :
    (tableSymbols freq).length ≤ i.toNat ∧ ∀ bit : Bool, (if bit then right else left).toNat < i.toNat := by
  by_cases hk : i.toNat < (tableSymbols freq).length
  · have hleaf := h.leaf i.toNat hk
    rw [BitVec.ofNat_toNat, BitVec.setWidth_eq] at hleaf
    cases hleaf.symm.trans hnode
  · obtain ⟨w', left', right', hinternal, hleft, hright⟩ := h.internal i (by omega) hi
    cases hinternal.symm.trans hnode
    exact ⟨by omega, Bool.forall_bool.2 ⟨hleft, hright⟩⟩

/-- A path descends to lower nodes, so it is no longer than there are internal nodes from its start down (R158). -/
theorem leadsTo_bound (h : TreeOf nodes root freq) {i j : NodeIx} {path : BitString} (hpath : LeadsTo nodes i path j)
    (hi : i.toNat ≤ root.toNat) :
    j.toNat ≤ i.toNat ∧ path.length + (tableSymbols freq).length ≤ max (i.toNat + 1) (tableSymbols freq).length := by
  induction hpath with
  | refl i => simp
  | @step i j left right w bit path hnode hpath ih =>
    obtain ⟨hk, hchild⟩ := h.internal_lt hi hnode
    have hlt := hchild bit
    obtain ⟨hj, hlen⟩ := ih (by omega)
    rw [List.length_cons]
    omega

/-- Every node of the tree is on a path from the root (R159 item 3). -/
theorem exists_path (h : TreeOf nodes root freq) (i : NodeIx) (hi : i.toNat ≤ root.toNat) :
    ∃ path, LeadsTo nodes root path i := by
  by_cases hroot : i.toNat = root.toNat
  · obtain rfl := BitVec.eq_of_toNat_eq hroot
    exact ⟨[], .refl i⟩
  · obtain ⟨m, him, hm, w, left, right, bit, hnode, rfl⟩ := h.parent i (by omega)
    obtain ⟨path, hpath⟩ := h.exists_path m hm
    exact ⟨path ++ [bit], hpath.snoc hnode bit⟩
termination_by root.toNat - i.toNat

/-- A path from the root to a leaf has at most 255 bits and leads to a symbol of the table and its count (R158). -/
theorem leafPath_root (h : TreeOf nodes root freq) {path : BitString} {v : Byte} (hpath : LeafPath nodes root path v) :
    path.length ≤ 255 ∧ freq[v.toNat]'v.isLt ≠ 0 ∧
      nodeAt nodes (descend nodes root path) = .leaf v (freq[v.toNat]'v.isLt) := by
  obtain ⟨j, w, hj, hnode⟩ := hpath
  obtain ⟨hle, hlen⟩ := h.leadsTo_bound hj (Nat.le_refl _)
  obtain ⟨rfl, hw⟩ := h.leaf_count hle hnode
  have hroot := h.root_eq
  have hsyms := tableSymbols_length_le freq
  rw [hj.descend_eq]
  exact ⟨by omega, hw, hnode⟩

/-- Every symbol of the table has a path from the root to its leaf. -/
theorem exists_leafPath (h : TreeOf nodes root freq) {v : Byte} (hv : freq[v.toNat]'v.isLt ≠ 0) :
    ∃ path, LeafPath nodes root path v := by
  obtain ⟨k, hk, rfl⟩ := List.getElem_of_mem ((mem_tableSymbols_iff freq v).2 hv)
  have hroot := h.root_eq
  have hsyms := tableSymbols_length_le freq
  obtain ⟨path, hpath⟩ := h.exists_path (BitVec.ofNat 9 k) (by rw [toNat_nodeIx (by omega)]; omega)
  exact ⟨path, _, _, hpath, h.leaf k hk⟩

/-- With two symbols or more the root is an internal node. -/
theorem root_internal (h : TreeOf nodes root freq) (hsyms : 2 ≤ (tableSymbols freq).length) :
    ∃ w left right, nodeAt nodes root = .internal w left right := by
  obtain ⟨w, left, right, hnode, -⟩ := h.internal root (by rw [h.root_eq]; omega) (Nat.le_refl _)
  exact ⟨w, left, right, hnode⟩

theorem root_ne_nil (h : TreeOf nodes root freq) : root ≠ NIL := by
  rintro rfl
  have hroot := h.root_eq
  have hsyms := tableSymbols_length_le freq
  simp only [BitVec.toNat_ofNat] at hroot
  omega

/-- With two symbols or more the code of a symbol of the table is a path to its leaf, and no other symbol has a code
(R170, R171). -/
theorem codeOf_codesOf (h : TreeOf nodes root freq) (hsyms : 2 ≤ (tableSymbols freq).length) (v : Byte) :
    (freq[v.toNat]'v.isLt ≠ 0 → LeafPath nodes root (codeOf (codesOf nodes root) v) v) ∧
      (freq[v.toNat]'v.isLt = 0 → codeOf (codesOf nodes root) v = []) := by
  obtain ⟨w, left, right, hnode⟩ := h.root_internal hsyms
  rw [codesOf_internal h.root_ne_nil hnode]
  refine ⟨fun hv => ?_, fun hv => ?_⟩
  · obtain ⟨path, hpath⟩ := h.exists_leafPath hv
    obtain ⟨hlen, -⟩ := h.leafPath_root hpath
    obtain ⟨code, hcode, hleaf⟩ := walkCodes_coded (fuel := 511) hpath (by omega) [] noCodes
    rw [hcode]
    exact hleaf
  · rcases walkCodes_cases 511 root [] noCodes v with hkept | ⟨path, -, hpath⟩
    · rw [hkept, codeOf_noCodes]
    · obtain ⟨-, hcount, -⟩ := h.leafPath_root hpath
      exact absurd hv hcount

/-- With two symbols or more every code is a path to its symbol's leaf. -/
theorem leafPath_of_code (h : TreeOf nodes root freq) (hsyms : 2 ≤ (tableSymbols freq).length) {v : Byte}
    (hcode : codeOf (codesOf nodes root) v ≠ []) : LeafPath nodes root (codeOf (codesOf nodes root) v) v := by
  obtain ⟨hpath, hnone⟩ := h.codeOf_codesOf hsyms v
  exact hpath fun hv => hcode (hnone hv)

/-- With two symbols or more no leaf's path is empty. -/
theorem leafPath_root_ne_nil (h : TreeOf nodes root freq) (hsyms : 2 ≤ (tableSymbols freq).length) {v : Byte} :
    ¬ LeafPath nodes root [] v := by
  obtain ⟨w, left, right, hnode⟩ := h.root_internal hsyms
  rw [leafPath_of_internal hnode]
  rintro ⟨_, _, hnil, -⟩
  cases hnil

end TreeOf

/-- The codes of the three kinds of tree: none, a single "0", or the paths to the leaves (R170 to R173). -/
theorem codesOf_cases {s : State} (h : s.treeFromFreq) :
    (tableSymbols s.freq = [] ∧ ∀ v, codeOf (codesOf s.nodes s.root) v = []) ∨
    (∃ sym, tableSymbols s.freq = [sym] ∧ ∀ v, codeOf (codesOf s.nodes s.root) v = if v = sym then [false] else []) ∨
    (2 ≤ (tableSymbols s.freq).length ∧ TreeOf s.nodes s.root s.freq) := by
  match hsyms : tableSymbols s.freq with
  | [] =>
    obtain ⟨-, -, -, hroot, -⟩ := h
    refine .inl ⟨rfl, fun v => ?_⟩
    rw [hroot, buildTree_root_empty hsyms, codesOf_nil, codeOf_noCodes]
  | [sym] =>
    have htree := treeOf_of_treeFromFreq h (by simp [hsyms])
    have hroot : s.root = BitVec.ofNat 9 0 := BitVec.eq_of_toNat_eq (by simp [htree.root_eq, hsyms])
    have hleaf := htree.leaf 0 (by simp [hsyms])
    simp only [hsyms, List.getElem_cons_zero, ← hroot] at hleaf
    exact .inr (.inl ⟨sym, rfl, codeOf_codesOf_leaf htree.root_ne_nil hleaf⟩)
  | _ :: _ :: _ => exact .inr (.inr ⟨by simp, treeOf_of_treeFromFreq h (by simp [hsyms])⟩)

end Sys2Proof.Machine
end

section
/-! PROOFS. GEN_CODES (42_code_table.md rules R170 to R174). -/

namespace Sys2Proof.Machine

/-- The state GEN_CODES ends in when TREE_VALID is 1. -/
def codesGenerated (s : State) : State :=
  State.finish { s with codes := codesOf s.nodes s.root, codesValid := true, packed := false } .none 0 false

@[simp] theorem codesGenerated_codes (s : State) : (codesGenerated s).codes = codesOf s.nodes s.root := rfl

/-- With TREE_VALID 1, GEN_CODES succeeds. -/
theorem exec_genCodes {s : State} (htree : s.treeValid = true) :
    exec .genCodes s = .next (codesGenerated s) ∧ Succeeded s (codesGenerated s) := by
  rcases genCodesBody_cases s with ⟨hinvalid, -⟩ | ⟨-, hbody⟩
  · cases htree.symm.trans hinvalid
  · exact exec_of_done hbody

/-- Settles O15: the body is done, the codes of the two small trees are known, and the rest is the body's frame. -/
theorem genCodesSucceedsOnAValidTree : Obligations.GenCodesSucceedsOnAValidTree := by
  intro s htree
  obtain ⟨hexec, hsucceeded⟩ := exec_genCodes htree
  refine ⟨codesGenerated s, hexec, hsucceeded, rfl, rfl, htree, rfl, fun hroot v => ?_, fun sym w hroot hnode v => ?_,
    rfl, ⟨rfl, rfl, rfl, rfl⟩, ⟨rfl, rfl⟩, rfl, rfl, rfl, fun _ => rfl⟩
  · rw [codesGenerated_codes, hroot, codesOf_nil, codeOf_noCodes]
  · exact codeOf_codesOf_leaf hroot hnode v

/-- Settles O16: a code is a path to the symbol's leaf, and a descent along it ends there. -/
theorem codesAreThePathsToTheLeaves : Obligations.CodesAreThePathsToTheLeaves := by
  intro s hvalid hfreq hsyms
  have htree := treeOf_of_treeFromFreq hfreq (List.length_pos_iff.1 (by omega))
  refine ⟨codesGenerated s, (exec_genCodes hvalid).1, fun v => ?_⟩
  obtain ⟨hpath, hnone⟩ := htree.codeOf_codesOf hsyms v
  refine ⟨fun hv => ?_, hnone⟩
  obtain ⟨-, -, hleaf⟩ := htree.leafPath_root (hpath hv)
  exact hleaf

/-- Settles O17, by the three kinds of tree: a path to a leaf has at most 255 bits, and at least one unless the leaf is
the root. -/
theorem codesCoverTheTableWithin255Bits : Obligations.CodesCoverTheTableWithin255Bits := by
  intro s hvalid hfreq
  refine ⟨codesGenerated s, (exec_genCodes hvalid).1, fun v => ?_⟩
  rw [codesGenerated_codes, freqOf, ← mem_tableSymbols_iff]
  rcases codesOf_cases hfreq with ⟨hsyms, hcode⟩ | ⟨sym, hsyms, hcode⟩ | ⟨hsyms, htree⟩
  · simp [hsyms, hcode]
  · by_cases hv : v = sym <;> simp [hsyms, hcode, hv]
  · obtain ⟨hpath, hnone⟩ := htree.codeOf_codesOf hsyms v
    rw [mem_tableSymbols_iff]
    by_cases hv : s.freq[v.toNat]'v.isLt = 0
    · simp [hnone hv, hv]
    · refine ⟨(htree.leafPath_root (hpath hv)).1, fun _ => hv, fun _ hnil => ?_⟩
      exact htree.leafPath_root_ne_nil hsyms (hnil ▸ hpath hv)

/-- Settles O18: two paths of which one begins with the other lead to one leaf; a single leaf has the only code. -/
theorem codesArePrefixFree : Obligations.CodesArePrefixFree := by
  intro s hvalid hfreq
  refine ⟨codesGenerated s, (exec_genCodes hvalid).1, fun a b hab ha hb hpre => hab ?_⟩
  rw [codesGenerated_codes] at ha hb hpre
  rcases codesOf_cases hfreq with ⟨-, hcode⟩ | ⟨sym, -, hcode⟩ | ⟨hsyms, htree⟩
  · exact absurd (hcode a) ha
  · have honly (v : Byte) (hv : codeOf (codesOf s.nodes s.root) v ≠ []) : v = sym := by
      by_contra hne
      exact hv ((hcode v).trans (if_neg hne))
    rw [honly a ha, honly b hb]
  · exact (htree.leafPath_of_code hsyms ha).eq_of_isPrefix (htree.leafPath_of_code hsyms hb) hpre

end Sys2Proof.Machine
end

section
/-! PROOFS. The payload of PACK: the padded bit stream cut into bytes, bit by bit (43_bit_packer.md rules R181 to
R184). -/

namespace Sys2Proof.Machine

/-! Bits of bytes (20_memory.md R87). -/

/-- Bit `i` of the bits of a byte is bit `7 - i` of the byte. -/
theorem byteBits_getElem? (b : Byte) {i : Nat} (hi : i < 8) : (byteBits b)[i]? = some (b.getLsbD (7 - i)) := by
  interval_cases i <;> rfl

/-- Bit `8k + i` of a byte sequence is bit `7 - i` of byte `k`. -/
theorem bytesToBits_getElem? (bytes : List Byte) {k i : Nat} (hk : k < bytes.length) (hi : i < 8) :
    (bytesToBits bytes)[8 * k + i]? = some (bytes[k].getLsbD (7 - i)) := by
  induction bytes generalizing k with
  | nil => cases hk
  | cons b bs ih =>
    rw [bytesToBits, List.flatMap_cons, ← bytesToBits]
    cases k with
    | zero =>
      rw [List.getElem?_append_left (by simpa using hi), Nat.mul_zero, Nat.zero_add]
      exact byteBits_getElem? b hi
    | succ k =>
      rw [List.getElem?_append_right (by rw [byteBits_length]; omega), byteBits_length,
        show 8 * (k + 1) + i - 8 = 8 * k + i by omega]
      exact ih (Nat.lt_of_succ_lt_succ hk)

/-! The padded bit stream and its byte cut (R182, R184). -/

/-- Padding fills the last byte of a bit stream. -/
theorem padded_length (bits : BitString) : (padded bits).length = 8 * ((bits.length + 7) / 8) := by
  rw [padded, List.length_append, List.length_replicate, padCount]
  omega

/-- The padding is of 0 bits. -/
theorem padded_getD (bits : BitString) (j : Nat) : (padded bits).getD j false = bits.getD j false := by
  by_cases hj : j < bits.length
  · exact List.getD_append _ _ _ _ hj
  · rw [padded, List.getD_append_right _ _ _ _ (Nat.le_of_not_lt hj), List.getD_eq_default _ _ (Nat.le_of_not_lt hj)]
    exact List.getElem?_getD_replicate_default_eq ..

/-- The payload has one byte for each eight bits of the stream, the last one begun included. -/
theorem payload_length (bits : BitString) : (bitsToBytes (padded bits)).length = (bits.length + 7) / 8 := by
  rw [bitsToBytes_length, padded_length, Nat.mul_div_cancel_left _ (by decide)]

/-- Payload bit `j` is bit `j` of the stream, and 0 behind its end. -/
theorem payload_getLsbD (bits : BitString) {j : Nat} (hj : j / 8 < (bitsToBytes (padded bits)).length) :
    (bitsToBytes (padded bits))[j / 8].getLsbD (7 - j % 8) = bits.getD j false := by
  have hcut := bytesToBits_bitsToBytes (padded bits) (by rw [padded_length, Nat.mul_mod_right])
  have hbit := bytesToBits_getElem? _ hj (Nat.mod_lt j (by decide))
  rw [hcut, Nat.div_add_mod] at hbit
  rw [← padded_getD, List.getD_eq_getElem?_getD, hbit, Option.getD_some]

/-! The search for a byte without a code (R180). -/

/-- Where every byte has a code, the search finds none without. -/
theorem firstAbsent_eq_none {codes : Vector BitString 256} {bytes : List Byte} {a : Nat}
    (h : ∀ b ∈ bytes, codeOf codes b ≠ []) : firstAbsent codes bytes a = none := by
  induction bytes generalizing a with
  | nil => rfl
  | cons b bs ih =>
    obtain ⟨hb, hbs⟩ := List.forall_mem_cons.1 h
    rw [firstAbsent, if_neg hb, ih hbs]

/-- The search finds the first byte without a code, `j` places on. -/
theorem firstAbsent_eq_some {codes : Vector BitString 256} {bytes : List Byte} {a j : Nat} (hj : j < bytes.length)
    (habsent : codeOf codes bytes[j] = []) (hbefore : ∀ k, ∀ hk : k < j, codeOf codes bytes[k] ≠ []) :
    firstAbsent codes bytes a = some (a + j) := by
  induction bytes generalizing a j with
  | nil => cases hj
  | cons b bs ih =>
    cases j with
    | zero => exact if_pos habsent
    | succ j =>
      have hb : codeOf codes b ≠ [] := hbefore 0 j.succ_pos
      rw [firstAbsent, if_neg hb, ih (Nat.lt_of_succ_lt_succ hj) habsent fun k hk =>
        hbefore (k + 1) (Nat.succ_lt_succ hk), Nat.add_assoc, Nat.add_comm 1]

end Sys2Proof.Machine
end

section
/-! PROOFS. PACK (43_bit_packer.md rules R180 to R184). -/

namespace Sys2Proof.Machine

/-! The input. -/

/-- Input byte `a` is the byte at offset `a` of IN_MEM. -/
theorem input_getElem (s : State) {a : Nat} (h : a < s.input.length) : s.input[a] = inByte s a := by
  simp [State.input, inBytes]

theorem input_length (s : State) : s.input.length = s.inLen.toNat := inBytes_length ..

theorem forall_mem_input_iff (s : State) (P : Byte → Prop) :
    (∀ b ∈ s.input, P b) ↔ ∀ a, a < s.inLen.toNat → P (inByte s a) := by
  simp [State.input, inBytes]

/-! The ends of PACK with CODES_VALID 1. -/

/-- The size of the container PACK leaves room for: the header and the payload (R183). -/
def packedSize (s : State) : Nat := 5 + 5 * s.nsym.toNat + ((bitStream s.codes s.input).length + 7) / 8

/-- The state the body of PACK leaves when every input byte has a code and the container fits. -/
def payloadWritten (s : State) : State :=
  { s with
    outMem := Memory.writeBytes s.outMem (headerLen s.nsym.toNat) (bitsToBytes (padded (bitStream s.codes s.input)))
    outLen := BitVec.ofNat 32 (packedSize s)
    pad := BitVec.ofNat 3 (padCount (bitStream s.codes s.input).length)
    bitlen := BitVec.ofNat 64 (bitStream s.codes s.input).length
    packed := true
    parsed := false }

/-- Above IN_CAP, PACK fails with IN_LEN_RANGE. -/
theorem exec_pack_range {s : State} (hcodes : s.codesValid = true) (hlen : s.inCap < s.inLen.toNat) :
    exec .pack s = .next (s.takeError .inLenRange s.inLen.toNat) ∧
      Failed s (s.takeError .inLenRange s.inLen.toNat) .inLenRange s.inLen := by
  rcases packBody_cases s with ⟨hinvalid, -⟩ | ⟨-, -, hbody⟩ | ⟨-, hle, -⟩ | ⟨-, hle, -⟩
  · cases hcodes.symm.trans hinvalid
  · simpa only [errInfoWord_toNat] using exec_of_raised (i := .pack) hbody
  · omega
  · omega

/-- Within IN_CAP, PACK fails with SYMBOL_ABSENT at the first byte without a code. -/
theorem exec_pack_absent {s : State} (hcodes : s.codesValid = true) (hlen : s.inLen.toNat ≤ s.inCap) {a : Nat}
    (ha : a < 2 ^ 32) (habsent : firstAbsent s.codes s.input 0 = some a) :
    exec .pack s = .next (s.dataPhaseError.takeError .symbolAbsent a) ∧
      Failed s (s.dataPhaseError.takeError .symbolAbsent a) .symbolAbsent (BitVec.ofNat 32 a) := by
  rcases packBody_cases s with ⟨hinvalid, -⟩ | ⟨-, hgt, -⟩ | ⟨-, -, b, hb, hbody⟩ | ⟨-, -, hnone, -⟩
  · cases hcodes.symm.trans hinvalid
  · omega
  · cases habsent.symm.trans hb
    simpa only [errInfoWord_of_lt ha] using exec_of_raised (i := .pack) hbody
  · cases habsent.symm.trans hnone

/-- When every input byte has a code, the size of the container decides how PACK ends. -/
theorem packBody_of_coded {s : State} (hcodes : s.codesValid = true) (hlen : s.inLen.toNat ≤ s.inCap)
    (hcoded : ∀ b ∈ s.input, codeOf s.codes b ≠ []) :
    (s.outCap < packedSize s ∧
      packBody s = .raised s.dataPhaseError .outOverflow (min (packedSize s) 0xFFFFFFFF)) ∨
    (packedSize s ≤ s.outCap ∧ packBody s = .done (payloadWritten s)) := by
  have hsize : headerLen s.nsym.toNat + (bitsToBytes (padded (bitStream s.codes s.input))).length = packedSize s := by
    rw [payload_length]
    rfl
  rcases packBody_cases s with ⟨hinvalid, -⟩ | ⟨-, hgt, -⟩ | ⟨-, -, a, ha, -⟩ | ⟨-, -, -, bits, payload, rfl, rfl, hend⟩
  · cases hcodes.symm.trans hinvalid
  · omega
  · cases (firstAbsent_eq_none hcoded).symm.trans ha
  · rwa [hsize] at hend

/-- A container that does not fit makes PACK fail with OUT_OVERFLOW, its size saturated at 32 bits. -/
theorem exec_pack_overflow {s : State} (hcodes : s.codesValid = true) (hlen : s.inLen.toNat ≤ s.inCap)
    (hcoded : ∀ b ∈ s.input, codeOf s.codes b ≠ []) (hfull : s.outCap < packedSize s) :
    exec .pack s = .next (s.dataPhaseError.takeError .outOverflow (min (packedSize s) 0xFFFFFFFF)) ∧
      Failed s (s.dataPhaseError.takeError .outOverflow (min (packedSize s) 0xFFFFFFFF)) .outOverflow
        (BitVec.ofNat 32 (min (packedSize s) 0xFFFFFFFF)) := by
  rcases packBody_of_coded hcodes hlen hcoded with ⟨-, hbody⟩ | ⟨hfits, -⟩
  · simpa only [errInfoWord_of_lt (show min (packedSize s) 0xFFFFFFFF < 2 ^ 32 by omega)] using
      exec_of_raised (i := .pack) hbody
  · omega

/-- A container that fits makes PACK succeed. -/
theorem exec_pack {s : State} (hcodes : s.codesValid = true) (hlen : s.inLen.toNat ≤ s.inCap)
    (hcoded : ∀ b ∈ s.input, codeOf s.codes b ≠ []) (hfits : packedSize s ≤ s.outCap) :
    exec .pack s = .next ((payloadWritten s).finish .none 0 false) ∧
      Succeeded s ((payloadWritten s).finish .none 0 false) := by
  rcases packBody_of_coded hcodes hlen hcoded with ⟨hfull, -⟩ | ⟨-, hbody⟩
  · omega
  · exact exec_of_done (i := .pack) hbody

/-- A data-phase error has the effects of 60_exceptions.md R238, whatever the error. -/
theorem takeError_dataPhaseFailed (s : State) (e : ErrCode) (info : Nat) :
    DataPhaseFailed s (s.dataPhaseError.takeError e info) :=
  ⟨rfl, rfl, fun _ => rfl, rfl, rfl, rfl, rfl, rfl, rfl, ⟨rfl, rfl, rfl, rfl⟩, rfl, ⟨rfl, rfl⟩⟩

/-! What PACK leaves when it succeeds. -/

/-- Payload bit `j` stands in OUT_MEM behind the header, the first in bit 7 (R183, R184). -/
theorem payloadWritten_bit (s : State) {j : Nat} (hj : j < 8 * (((bitStream s.codes s.input).length + 7) / 8)) :
    (outByte (payloadWritten s) (headerLen s.nsym.toNat + j / 8)).getLsbD (7 - j % 8) =
      (bitStream s.codes s.input).getD j false := by
  have hin : j / 8 < (bitsToBytes (padded (bitStream s.codes s.input))).length := by
    rw [payload_length]
    omega
  rw [outByte_writeBytes_inside (s := s) rfl hin, payload_getLsbD]

/-- PACK writes the payload's bytes of OUT_MEM and no other. -/
theorem payloadWritten_keepsOutOutside (s : State) :
    KeepsOutOutside s (payloadWritten s) (headerLen s.nsym.toNat) (packedSize s) := by
  intro a ha
  refine outByte_writeBytes_outside (s := s) (t := payloadWritten s) rfl rfl (ha.imp_right fun h => ?_)
  rwa [payload_length]

/-- OUT_LEN, PAD and BITLEN hold their numbers: a container within a legal OUT_CAP has fewer than 2^33 bits. -/
theorem payloadWritten_regs {s : State} (hcaps : s.capsLegal) (hfits : packedSize s ≤ s.outCap) :
    (payloadWritten s).outLen.toNat = packedSize s ∧
      (payloadWritten s).pad.toNat = padCount (bitStream s.codes s.input).length ∧
      (payloadWritten s).bitlen.toNat = (bitStream s.codes s.input).length := by
  obtain ⟨-, -, -, hcap⟩ := hcaps
  have hpad := (padCount_spec (bitStream s.codes s.input).length).1
  have hbits : (bitStream s.codes s.input).length ≤ 8 * packedSize s := by
    rw [packedSize]
    omega
  exact ⟨Nat.mod_eq_of_lt (by omega), Nat.mod_eq_of_lt (by omega), Nat.mod_eq_of_lt (by omega)⟩

/-- Settles O19: the body is done, the payload's bytes are the padded stream's, and the rest is the body's frame. -/
theorem packWritesThePaddedCodes : Obligations.PackWritesThePaddedCodes := by
  rintro s bits hcaps hcodes hlen hcoded rfl hfits
  obtain ⟨hexec, hsucceeded⟩ := exec_pack hcodes hlen hcoded hfits
  obtain ⟨houtLen, hpad, hbitlen⟩ := payloadWritten_regs hcaps hfits
  exact ⟨_, hexec, hsucceeded, houtLen, hpad, hbitlen, fun j hj => payloadWritten_bit s hj, rfl, rfl, rfl, hcodes,
    rfl, ⟨rfl, rfl, rfl, rfl⟩, rfl, ⟨rfl, rfl⟩, payloadWritten_keepsOutOutside s⟩

/-- Settles O20: the body's three errors in their order, the second at the first byte without a code. -/
theorem packErrorsAndTheirEffects : Obligations.PackErrorsAndTheirEffects := by
  intro s hcodes
  refine ⟨fun hlen => ?_, fun hlen => ⟨fun a ha habsent hbefore => ?_, fun hcoded hfull => ?_⟩⟩
  · obtain ⟨hexec, hfailed⟩ := exec_pack_range hcodes hlen
    exact ⟨_, hexec, hfailed, takeError_keepsResults s .inLenRange _, rfl⟩
  · have hin : a < s.input.length := by rwa [input_length]
    have hfirst : firstAbsent s.codes s.input 0 = some (0 + a) := by
      refine firstAbsent_eq_some hin ?_ fun k hk => ?_
      · rwa [input_getElem]
      · rw [input_getElem]
        exact hbefore k hk
    rw [Nat.zero_add] at hfirst
    obtain ⟨hexec, hfailed⟩ := exec_pack_absent hcodes hlen (ha.trans s.inLen.isLt) hfirst
    exact ⟨_, hexec, hfailed, takeError_dataPhaseFailed s .symbolAbsent _⟩
  · obtain ⟨hexec, hfailed⟩ := exec_pack_overflow hcodes hlen ((forall_mem_input_iff s _).2 hcoded) hfull
    exact ⟨_, hexec, hfailed, takeError_dataPhaseFailed s .outOverflow _⟩

end Sys2Proof.Machine
end

section
/-! PROOFS. The walk of UNPACK over the codes of a tree, one code at a time (44_bit_unpacker.md rules R192, R193, R195
and R196). -/

namespace Sys2Proof.Machine

variable {nodes : Vector Node 511} {root cur left right k : NodeIx} {outCap : Nat} {w : Word} {v sym : Byte}
  {bit : Bool} {code path rest : BitString}

/-! Paths. -/

/-- A path to an internal node starts at one. -/
theorem LeadsTo.start_internal (h : LeadsTo nodes cur path k) (hk : nodeAt nodes k = .internal w left right) :
    ∃ w left right, nodeAt nodes cur = .internal w left right := by
  cases h with
  | refl => exact ⟨w, left, right, hk⟩
  | step hnode => exact ⟨_, _, _, hnode⟩

/-- A path with a first bit leaves an internal node, and goes on from the child the bit chooses. -/
theorem LeafPath.of_cons (h : LeafPath nodes cur (bit :: path) v) :
    ∃ w left right, nodeAt nodes cur = .internal w left right ∧
      LeafPath nodes (if bit then right else left) path v := by
  obtain ⟨j, w', hpath, hj⟩ := h
  cases hpath with
  | step hnode hpath => exact ⟨_, _, _, hnode, j, w', hpath, hj⟩

/-- A proper beginning of a path to a leaf leads to an internal node. -/
theorem LeafPath.of_append (h : LeafPath nodes cur (path ++ rest) v) (hrest : rest ≠ []) :
    ∃ k w left right, LeadsTo nodes cur path k ∧ nodeAt nodes k = .internal w left right := by
  induction path generalizing cur with
  | nil =>
    obtain ⟨bit, rest, rfl⟩ := List.exists_cons_of_ne_nil hrest
    obtain ⟨w, left, right, hnode, -⟩ := h.of_cons
    exact ⟨cur, w, left, right, .refl cur, hnode⟩
  | cons bit path ih =>
    obtain ⟨_, _, _, hnode, hchild⟩ := h.of_cons
    obtain ⟨k, w, left, right, hpath, hk⟩ := ih hchild
    exact ⟨k, w, left, right, .step hnode hpath, hk⟩

/-! The walk of a tree (R192). -/

/-- A bit that chooses an internal node emits nothing. -/
theorem treeWalk_internal {w' : Word} {left' right' : NodeIx} (hcur : nodeAt nodes cur = .internal w left right)
    (hnext : nodeAt nodes (if bit then right else left) = .internal w' left' right') (j n : Nat) (out : List Byte) :
    treeWalk nodes root outCap (bit :: rest) cur j n out =
      treeWalk nodes root outCap rest (if bit then right else left) (j + 1) n out := by
  simp only [treeWalk, hcur, hnext]

/-- A bit that chooses a leaf emits its symbol, and the walk starts again at the root. -/
theorem treeWalk_leaf {w' : Word} (hcur : nodeAt nodes cur = .internal w left right)
    (hnext : nodeAt nodes (if bit then right else left) = .leaf v w') (j n : Nat) (out : List Byte) :
    treeWalk nodes root outCap (bit :: rest) cur j n out =
      emit outCap n v out >>= treeWalk nodes root outCap rest root (j + 1) (n + 1) := by
  simp only [treeWalk, hcur, hnext]
  cases emit outCap n v out <;> rfl

/-- A path between internal nodes emits nothing. -/
theorem treeWalk_leadsTo (h : LeadsTo nodes cur path k) (hk : nodeAt nodes k = .internal w left right) (j n : Nat)
    (out : List Byte) :
    treeWalk nodes root outCap (path ++ rest) cur j n out =
      treeWalk nodes root outCap rest k (j + path.length) n out := by
  induction h generalizing j with
  | refl => rfl
  | step hnode hpath ih =>
    obtain ⟨_, _, _, hnext⟩ := hpath.start_internal hk
    rw [List.cons_append, treeWalk_internal hnode hnext, ih hk, List.length_cons, Nat.add_right_comm, Nat.add_assoc]

/-- The path to a leaf emits its symbol, and the walk starts again at the root. -/
theorem treeWalk_leafPath (h : LeafPath nodes cur path v) (hpath : path ≠ []) (j n : Nat) (out : List Byte) :
    treeWalk nodes root outCap (path ++ rest) cur j n out =
      emit outCap n v out >>= treeWalk nodes root outCap rest root (j + path.length) (n + 1) := by
  induction path generalizing cur j with
  | nil => exact absurd rfl hpath
  | cons bit path ih =>
    obtain ⟨_, _, _, hcur, hchild⟩ := h.of_cons
    cases path with
    | nil =>
      obtain ⟨_, _, hleads, hleaf⟩ := hchild
      cases hleads
      exact treeWalk_leaf hcur hleaf j n out
    | cons bit' path =>
      obtain ⟨_, _, _, hnext, -⟩ := hchild.of_cons
      rw [List.cons_append, List.cons_append, treeWalk_internal hcur hnext, ← List.cons_append,
        ih hchild (List.cons_ne_nil _ _), List.length_cons (a := bit), Nat.add_right_comm, Nat.add_assoc]

/-! The walk of a single leaf (R193). -/

/-- A 0 bit emits the symbol. -/
theorem singleLeafWalk_zero (j : Nat) (out : List Byte) :
    singleLeafWalk sym outCap (false :: rest) j out =
      emit outCap j sym out >>= singleLeafWalk sym outCap rest (j + 1) := by
  rw [singleLeafWalk]
  cases emit outCap j sym out <;> rfl

/-! Both walks, from the root. -/

/-- The walk of UNPACK from the root on, with bit `j` next and `n` bytes emitted; at a single leaf the two are one
number. -/
def rootWalk (nodes : Vector Node 511) (root : NodeIx) (outCap : Nat) (bits : BitString) (j n : Nat)
    (out : List Byte) : Except (ErrCode × Nat) (List Byte) :=
  match nodeAt nodes root with
  | .leaf sym _ => singleLeafWalk sym outCap bits n out
  | .internal _ _ _ => treeWalk nodes root outCap bits root j n out

theorem rootWalk_of_leaf (hnode : nodeAt nodes root = .leaf sym w) (bits : BitString) (j n : Nat) (out : List Byte) :
    rootWalk nodes root outCap bits j n out = singleLeafWalk sym outCap bits n out := by
  simp only [rootWalk, hnode]

theorem rootWalk_of_internal (hnode : nodeAt nodes root = .internal w left right) (bits : BitString) (j n : Nat)
    (out : List Byte) : rootWalk nodes root outCap bits j n out = treeWalk nodes root outCap bits root j n out := by
  simp only [rootWalk, hnode]

/-- With a root, decoding is the walk from it with nothing emitted; the bytes come newest first. -/
theorem decodeBits_eq_rootWalk (hroot : root ≠ NIL) (bits : BitString) :
    decodeBits nodes root outCap bits = List.reverse <$> rootWalk nodes root outCap bits 0 0 [] := by
  rw [decodeBits, if_neg hroot]
  cases hnode : nodeAt nodes root with
  | leaf sym w =>
    rw [rootWalk_of_leaf hnode]
    dsimp only
    cases singleLeafWalk sym outCap bits 0 [] <;> rfl
  | internal w left right =>
    rw [rootWalk_of_internal hnode]
    dsimp only
    cases treeWalk nodes root outCap bits root 0 0 [] <;> rfl

/-- At the end of the bits a walk at the root answers what it has emitted (R195). -/
@[simp] theorem rootWalk_nil (j n : Nat) (out : List Byte) : rootWalk nodes root outCap [] j n out = .ok out := by
  cases hnode : nodeAt nodes root with
  | leaf sym w => rw [rootWalk_of_leaf hnode, singleLeafWalk]
  | internal w left right => rw [rootWalk_of_internal hnode, treeWalk, if_pos rfl]

/-- The bits a walk reads the symbol `v` from: "0" where the root is a leaf (42_code_table.md R172), else the path to a
leaf of `v` (R171). -/
def IsCode (nodes : Vector Node 511) (root : NodeIx) (code : BitString) (v : Byte) : Prop :=
  root ≠ NIL ∧ ((code = [false] ∧ ∃ w, nodeAt nodes root = .leaf v w) ∨ (code ≠ [] ∧ LeafPath nodes root code v))

/-- A code emits its symbol, and the walk is at the root again. -/
theorem rootWalk_isCode (h : IsCode nodes root code v) (j n : Nat) (out : List Byte) :
    rootWalk nodes root outCap (code ++ rest) j n out =
      emit outCap n v out >>= rootWalk nodes root outCap rest (j + code.length) (n + 1) := by
  obtain ⟨-, ⟨rfl, w, hnode⟩ | ⟨hcode, hpath⟩⟩ := h
  · rw [rootWalk_of_leaf hnode, funext (rootWalk_of_leaf hnode rest (j + [false].length) (n + 1))]
    exact singleLeafWalk_zero n out
  · obtain ⟨bit, path, rfl⟩ := List.exists_cons_of_ne_nil hcode
    obtain ⟨_, _, _, hnode, -⟩ := hpath.of_cons
    rw [rootWalk_of_internal hnode, treeWalk_leafPath hpath hcode,
      ← funext (rootWalk_of_internal hnode rest _ (n + 1))]

/-- Codes whose symbols fit OUT_CAP emit them, and the walk is at the root again. -/
theorem rootWalk_bitStream {codes : Vector BitString 256} {bytes : List Byte}
    (hcodes : ∀ b ∈ bytes, IsCode nodes root (codeOf codes b) b) {n : Nat} (hfits : n + bytes.length ≤ outCap) (j : Nat)
    (out : List Byte) :
    rootWalk nodes root outCap (bitStream codes bytes ++ rest) j n out =
      rootWalk nodes root outCap rest (j + (bitStream codes bytes).length) (n + bytes.length)
        (bytes.reverse ++ out) := by
  induction bytes generalizing j n out with
  | nil => rfl
  | cons b bs ih =>
    obtain ⟨hb, hbs⟩ := List.forall_mem_cons.1 hcodes
    rw [List.length_cons] at hfits
    have hemit : emit outCap n b out = .ok (b :: out) := if_neg (by omega)
    have hstream : bitStream codes (b :: bs) = codeOf codes b ++ bitStream codes bs := rfl
    rw [hstream, List.append_assoc, rootWalk_isCode hb, hemit]
    show rootWalk nodes root outCap (bitStream codes bs ++ rest) _ (n + 1) (b :: out) = _
    rw [ih hbs (by omega), List.length_append, List.length_cons, List.reverse_cons, List.append_assoc,
      Nat.add_assoc j, Nat.add_assoc n, Nat.add_comm 1]
    rfl

end Sys2Proof.Machine
end

section
/-! PROOFS. What the retained bits are, what they decode to, and UNPACK (44_bit_unpacker.md rules R190 to R196). -/

namespace Sys2Proof.Machine

/-! The retained bits (R191). -/

theorem retainedBits_length (s : State) : (retainedBits s).length = 8 * s.payloadLen.toNat - s.pad.toNat := by
  rw [retainedBits, List.length_take, bytesToBits_length, inBytes_length, Nat.min_eq_left (Nat.sub_le ..)]

/-- A payload is at most 2^32 - 1 bytes long, so it has fewer than 2^35 bits. -/
theorem retainedBits_length_lt (s : State) : (retainedBits s).length < 2 ^ 35 := by
  have hlen := s.payloadLen.isLt
  rw [retainedBits_length]
  omega

/-- Settles O27: the taken bits are the first ones of the payload's, eight to a byte. -/
theorem retainedBitsAreThePayloadsFirst : Obligations.RetainedBitsAreThePayloadsFirst := by
  intro s
  refine ⟨retainedBits_length s, fun j hj => ?_⟩
  have hbyte : j / 8 < (inBytes s s.payloadOff.toNat s.payloadLen.toNat).length := by
    rw [inBytes_length]
    omega
  have hbit := bytesToBits_getElem? _ hbyte (Nat.mod_lt j (by decide))
  rw [Nat.div_add_mod, inBytes_getElem _ _ _ _ (by simpa using hbyte)] at hbit
  rw [retainedBits, List.getElem?_take_of_lt hj, hbit]

/-! The root of a tree with internal nodes. -/

/-- A tree whose root is an internal node has two symbols or more. -/
theorem TreeOf.two_symbols {nodes : Vector Node 511} {root left right : NodeIx} {freq : Vector Word 256} {w : Word}
    (h : TreeOf nodes root freq) (hnode : nodeAt nodes root = .internal w left right) :
    2 ≤ (tableSymbols freq).length := by
  have hchild := (h.internal_lt (Nat.le_refl _) hnode).2 false
  have hroot := h.root_eq
  omega

/-- A path of one bit or more leads from the root to a lower node. -/
theorem TreeOf.leadsTo_lt {nodes : Vector Node 511} {root k : NodeIx} {freq : Vector Word 256} {path : BitString}
    (h : TreeOf nodes root freq) (hpath : LeadsTo nodes root path k) (hne : path ≠ []) : k.toNat < root.toNat := by
  cases hpath with
  | refl => exact absurd rfl hne
  | @step _ _ _ _ _ bit _ hnode hpath =>
    have hchild := (h.internal_lt (Nat.le_refl _) hnode).2 bit
    exact (h.leadsTo_bound hpath hchild.le).1.trans_lt hchild

/-! What a payload decodes to. -/

section Decode

variable {nodes : Vector Node 511} {root : NodeIx} {outCap : Nat} {codes : Vector BitString 256} {out : List Byte}
  {rest : BitString}

/-- Behind codes whose symbols fit OUT_CAP the walk goes on from the root. -/
theorem decodeBits_bitStream_append (hroot : root ≠ NIL) (hcodes : ∀ b ∈ out, IsCode nodes root (codeOf codes b) b)
    (hfits : out.length ≤ outCap) :
    decodeBits nodes root outCap (bitStream codes out ++ rest) =
      List.reverse <$> rootWalk nodes root outCap rest (bitStream codes out).length out.length out.reverse := by
  rw [decodeBits_eq_rootWalk hroot, rootWalk_bitStream hcodes (by rwa [Nat.zero_add]), List.append_nil, Nat.zero_add,
    Nat.zero_add]

/-- No bits decode to no bytes, under the empty tree (R194) and under every other (R195). -/
theorem decodeBits_nil : decodeBits nodes root outCap [] = .ok [] := by
  by_cases hroot : root = NIL
  · rw [decodeBits, if_pos hroot, if_pos rfl]
    rfl
  · rw [decodeBits_eq_rootWalk hroot, rootWalk_nil]
    rfl

/-- Codes whose symbols fit OUT_CAP decode to them (R192, R193, 42_code_table.md R174 item 5). -/
theorem decodeBits_bitStream (hcodes : ∀ b ∈ out, IsCode nodes root (codeOf codes b) b) (hfits : out.length ≤ outCap) :
    decodeBits nodes root outCap (bitStream codes out) = .ok out := by
  cases out with
  | nil => exact decodeBits_nil
  | cons b bs =>
    have hroot := (hcodes b (List.mem_cons_self ..)).1
    have hdecode := decodeBits_bitStream_append (rest := []) hroot hcodes hfits
    rw [List.append_nil, rootWalk_nil] at hdecode
    exact hdecode.trans (congrArg Except.ok (List.reverse_reverse (b :: bs)))

/-- One code too many for OUT_CAP overflows it (R196). -/
theorem decodeBits_overflow (hcodes : ∀ b ∈ out, IsCode nodes root (codeOf codes b) b)
    (hlen : out.length = outCap + 1) :
    decodeBits nodes root outCap (bitStream codes out ++ rest) = .error (.outOverflow, outCap + 1) := by
  obtain ⟨fit, v, rfl⟩ := List.eq_nil_or_concat' out |>.resolve_left (by rintro rfl; cases hlen)
  rw [List.length_append, List.length_singleton, Nat.add_right_cancel_iff] at hlen
  have hv := hcodes v (by simp)
  have hstream : bitStream codes (fit ++ [v]) ++ rest = bitStream codes fit ++ (codeOf codes v ++ rest) := by
    simp [bitStream]
  have hemit : emit outCap fit.length v fit.reverse = .error (.outOverflow, outCap + 1) := by
    rw [hlen]
    exact if_pos rfl
  rw [hstream, decodeBits_bitStream_append hv.1 (fun b hb => hcodes b (List.mem_append_left _ hb)) hlen.le,
    rootWalk_isCode hv, hemit]
  rfl

/-- Under a single leaf a 1 bit has no code (R193). -/
theorem decodeBits_one {sym : Byte} {w : Word} {j : Nat} (hroot : root ≠ NIL) (hnode : nodeAt nodes root = .leaf sym w)
    (hfits : j ≤ outCap) :
    decodeBits nodes root outCap (List.replicate j false ++ true :: rest) = .error (.desync, j) := by
  have hcode : codeOf (codesOf nodes root) sym = [false] := by rw [codeOf_codesOf_leaf hroot hnode, if_pos rfl]
  have hstream : bitStream (codesOf nodes root) (List.replicate j sym) = List.replicate j false := by
    rw [bitStream, List.flatMap_replicate, hcode, List.flatten_replicate_singleton]
  have hcodes : ∀ b ∈ List.replicate j sym, IsCode nodes root (codeOf (codesOf nodes root) b) b := by
    intro b hb
    rw [List.eq_of_mem_replicate hb]
    exact ⟨hroot, .inl ⟨hcode, w, hnode⟩⟩
  rw [← hstream, decodeBits_bitStream_append hroot hcodes (by rwa [List.length_replicate]), rootWalk_of_leaf hnode,
    List.length_replicate]
  rfl

/-- A walk that ends inside a code desynchronises at the end of the bits (R195): it is below the root. -/
theorem decodeBits_unfinished {freq : Vector Word 256} {more : BitString} {v : Byte} (htree : TreeOf nodes root freq)
    (hcodes : ∀ b ∈ out, IsCode nodes root (codeOf codes b) b) (hfits : out.length ≤ outCap)
    (hpath : LeafPath nodes root (rest ++ more) v) (hrest : rest ≠ []) (hmore : more ≠ []) :
    decodeBits nodes root outCap (bitStream codes out ++ rest) =
      .error (.desync, (bitStream codes out ++ rest).length) := by
  obtain ⟨k, _, _, _, hleads, hk⟩ := hpath.of_append hmore
  obtain ⟨_, _, _, hroot⟩ := hleads.start_internal hk
  have hbelow : k ≠ root := by
    rintro rfl
    exact (htree.leadsTo_lt hleads hrest).false
  have hwalk := treeWalk_leadsTo (root := root) (outCap := outCap) (rest := []) hleads hk (bitStream codes out).length
    out.length out.reverse
  rw [List.append_nil, treeWalk, if_neg hbelow, ← List.length_append] at hwalk
  rw [decodeBits_bitStream_append htree.root_ne_nil hcodes hfits, rootWalk_of_internal hroot, hwalk]
  rfl

/-- The empty tree decodes no bit (R194). -/
theorem decodeBits_empty_tree {bits : BitString} (hbits : bits ≠ []) :
    decodeBits nodes NIL outCap bits = .error (.desync, 0) := by
  rw [decodeBits, if_pos rfl, if_neg hbits]

end Decode

/-! The codes of the present table. -/

/-- The tree of a table reads each symbol of the table from its code: a root that is a leaf is the symbol's, and under a
root that is none the code is the path. -/
theorem isCode_codesOf {s : State} (htree : s.treeFromFreq) {v : Byte} (hv : freqOf s v ≠ 0) :
    IsCode s.nodes s.root (codeOf (codesOf s.nodes s.root) v) v := by
  have h := treeOf_of_treeFromFreq htree (List.ne_nil_of_mem ((mem_tableSymbols_iff s.freq v).2 hv))
  refine ⟨h.root_ne_nil, ?_⟩
  cases hnode : nodeAt s.nodes s.root with
  | leaf sym w =>
    obtain ⟨path, hpath⟩ := h.exists_leafPath hv
    obtain ⟨-, rfl⟩ := (leafPath_of_leaf hnode).1 hpath
    exact .inl ⟨by rw [codeOf_codesOf_leaf h.root_ne_nil hnode, if_pos rfl], w, rfl⟩
  | internal w left right =>
    have hsyms : 2 ≤ (tableSymbols s.freq).length := h.two_symbols hnode
    have hpath := (h.codeOf_codesOf hsyms v).1 hv
    exact .inr ⟨fun hnil => h.leafPath_root_ne_nil hsyms (hnil ▸ hpath), hpath⟩

/-! UNPACK. -/

/-- What the body of UNPACK leaves when the retained bits decode to `out`. -/
def bytesUnpacked (s : State) (out : List Byte) : State :=
  { s with
    outMem := Memory.writeBytes s.outMem 0 out
    outLen := BitVec.ofNat 32 out.length
    bitlen := BitVec.ofNat 64 (retainedBits s).length
    packed := false }

@[simp] theorem bytesUnpacked_outLen (s : State) (out : List Byte) :
    (bytesUnpacked s out).outLen = BitVec.ofNat 32 out.length := rfl

/-- With a tree and a parsed container, UNPACK ends as the decoding of the retained bits does. -/
theorem unpackBody_of_valid {s : State} (htree : s.treeValid = true) (hparsed : s.parsed = true) :
    (∀ out, decodeBits s.nodes s.root s.outCap (retainedBits s) = .ok out →
      unpackBody s = .done (bytesUnpacked s out)) ∧
    ∀ e info, decodeBits s.nodes s.root s.outCap (retainedBits s) = .error (e, info) →
      unpackBody s = .raised s.dataPhaseError e info := by
  rcases unpackBody_cases s with ⟨hmissing, -⟩ | ⟨-, -, e, hdecode, hbody⟩ | ⟨-, -, out, hdecode, hbody⟩
  · simp [htree, hparsed] at hmissing
  · rw [hdecode, hbody]
    exact ⟨nofun, fun _ _ h => by cases h; rfl⟩
  · rw [hdecode, hbody]
    exact ⟨fun _ h => by cases h; rfl, nofun⟩

/-- A run just written is what OUT_MEM reads at its place. -/
theorem outBytes_writeBytes {s t : State} {base : Nat} {bytes : List Byte}
    (hm : t.outMem = Memory.writeBytes s.outMem base bytes) : outBytes t base bytes.length = bytes :=
  List.ext_getElem (outBytes_length ..) fun k _ hk => by
    rw [outBytes_getElem t base bytes.length k hk, outByte_writeBytes_inside hm hk]

/-- UNPACK leaves the decoded bytes from offset 0 on. -/
@[simp] theorem outBytes_bytesUnpacked (s : State) (out : List Byte) :
    outBytes (bytesUnpacked s out) 0 out.length = out := outBytes_writeBytes (s := s) rfl

/-- Completing leaves every run of OUT_MEM as it was. -/
@[simp] theorem outBytes_finish (s : State) (e : ErrCode) (info : Word) (b : Bool) (base n : Nat) :
    outBytes (s.finish e info b) base n = outBytes s base n := rfl

/-- Retained bits that do not decode make UNPACK fail with the effects of a data-phase error (R195, R196). -/
theorem exec_unpack_raised {s : State} (htree : s.treeValid = true) (hparsed : s.parsed = true) {e : ErrCode}
    {info : Nat} (hdecode : decodeBits s.nodes s.root s.outCap (retainedBits s) = .error (e, info)) :
    ∃ t, exec .unpack s = .next t ∧ Failed s t e (errInfoWord info) ∧ DataPhaseFailed s t := by
  obtain ⟨hexec, hfailed⟩ := exec_of_raised (i := .unpack) ((unpackBody_of_valid htree hparsed).2 e info hdecode)
  exact ⟨_, hexec, hfailed, takeError_dataPhaseFailed s e info⟩

/-- A desynchronised walk is DESYNC at its bit index, which ERR_INFO shows below 2^32 (log entry 6). -/
theorem exec_unpack_desync {s : State} (htree : s.treeValid = true) (hparsed : s.parsed = true) {j : Nat}
    (hdecode : decodeBits s.nodes s.root s.outCap (retainedBits s) = .error (.desync, j)) :
    ∃ t, exec .unpack s = .next t ∧ Failed s t .desync t.errInfo ∧
      (j < 2 ^ 32 → t.errInfo = BitVec.ofNat 32 j) ∧ DataPhaseFailed s t := by
  obtain ⟨t, hexec, hfailed, heffects⟩ := exec_unpack_raised htree hparsed hdecode
  obtain ⟨hcompleted, herr, hcode, hinfo⟩ := hfailed
  exact ⟨t, hexec, ⟨hcompleted, herr, hcode, rfl⟩, fun hj => hinfo.trans (errInfoWord_of_lt hj), heffects⟩

/-- Settles O28: the walk reads the bytes off their codes, and the rest is the body's frame. -/
theorem unpackDecodesConcatenatedCodes : Obligations.UnpackDecodesConcatenatedCodes := by
  intro s out hcaps htree hparsed hfreq hsyms hbits hfits
  have hdecode : decodeBits s.nodes s.root s.outCap (retainedBits s) = .ok out := by
    rw [hbits]
    exact decodeBits_bitStream (fun b hb => isCode_codesOf hfreq (hsyms b hb)) hfits
  obtain ⟨hexec, hsucceeded⟩ := exec_of_done (i := .unpack) ((unpackBody_of_valid htree hparsed).1 out hdecode)
  have hcap : s.outCap ≤ 2 ^ 30 := hcaps.2.2.2
  have houtLen : (BitVec.ofNat 32 out.length).toNat = out.length := Nat.mod_eq_of_lt (by omega)
  have hbitlen : (BitVec.ofNat 64 (retainedBits s).length).toNat = 8 * s.payloadLen.toNat - s.pad.toNat := by
    rw [← retainedBits_length]
    exact Nat.mod_eq_of_lt ((retainedBits_length_lt s).trans (by decide))
  refine ⟨_, hexec, hsucceeded, houtLen, outBytes_bytesUnpacked s out, hbitlen, rfl, htree, rfl, hparsed, rfl,
    ⟨rfl, rfl, rfl, rfl⟩, rfl, ⟨rfl, rfl⟩, rfl, fun a ha => ?_⟩
  exact outByte_writeBytes_outside (s := s) (t := bytesUnpacked s out) rfl rfl (by rwa [Nat.zero_add])

/-- Settles O29: a code of two bits or more is a path, and a beginning of it leads below the root. -/
theorem unpackRefusesAnUnfinishedWalk : Obligations.UnpackRefusesAnUnfinishedWalk := by
  intro s out rest more v htree hparsed hfreq hsyms hv hcode hrest hmore hbits hfits
  have hpath : LeafPath s.nodes s.root (rest ++ more) v := by
    obtain ⟨-, ⟨hzero, -⟩ | ⟨-, hpath⟩⟩ := isCode_codesOf hfreq hv
    · rw [hcode, List.append_eq_singleton_iff] at hzero
      simp [hrest, hmore] at hzero
    · rwa [hcode] at hpath
  have hroot := treeOf_of_treeFromFreq hfreq (List.ne_nil_of_mem ((mem_tableSymbols_iff s.freq v).2 hv))
  have hdecode := decodeBits_unfinished (outCap := s.outCap) hroot (fun b hb => isCode_codesOf hfreq (hsyms b hb)) hfits
    hpath hrest hmore
  rw [← hbits] at hdecode
  exact exec_unpack_desync htree hparsed hdecode

/-- Settles O30: the 0 bits before it are codes of the leaf's symbol; the empty tree has no walk. -/
theorem unpackRefusesBitsWithoutACode : Obligations.UnpackRefusesBitsWithoutACode := by
  intro s htree hparsed
  refine ⟨fun sym w j rest hroot hnode hbits hfits => ?_, fun hroot hbits => ?_⟩
  · exact exec_unpack_desync htree hparsed (hbits ▸ decodeBits_one hroot hnode hfits)
  · exact exec_unpack_raised (info := 0) htree hparsed (hroot ▸ decodeBits_empty_tree hbits)

/-- Settles O31: the walk emits OUT_CAP bytes and finds no room for the next. -/
theorem unpackReportsOutputOverflow : Obligations.UnpackReportsOutputOverflow := by
  intro s out rest hcaps htree hparsed hfreq hsyms hbits hlen
  have hdecode : decodeBits s.nodes s.root s.outCap (retainedBits s) = .error (.outOverflow, s.outCap + 1) := by
    rw [hbits]
    exact decodeBits_overflow (fun b hb => isCode_codesOf hfreq (hsyms b hb)) hlen
  have hcap : s.outCap ≤ 2 ^ 30 := hcaps.2.2.2
  rw [← errInfoWord_of_lt (by omega)]
  exact exec_unpack_raised htree hparsed hdecode

end Sys2Proof.Machine
end

section
/-! PROOFS. Reading a canonical container back (30_encoding.md rules R107 to R112, 45_container.md rule R202). -/

namespace Sys2Proof.Machine

/-! A run of bytes in a memory. -/

/-- The bytes stand at offset `o` of what `read` reads. -/
def ReadsAt (read : Nat → Byte) (o : Nat) (bytes : List Byte) : Prop :=
  ∀ k, ∀ h : k < bytes.length, read (o + k) = bytes[k]

section ReadsAt

variable {read : Nat → Byte} {o : Nat} {b : Byte} {bytes bytes' : List Byte}

theorem ReadsAt.cons (h : ReadsAt read o (b :: bytes)) : read o = b ∧ ReadsAt read (o + 1) bytes :=
  ⟨h 0 bytes.length.succ_pos, fun k hk => by
    rw [Nat.add_assoc, Nat.add_comm 1]
    exact h (k + 1) (Nat.succ_lt_succ hk)⟩

theorem ReadsAt.append (h : ReadsAt read o (bytes ++ bytes')) :
    ReadsAt read o bytes ∧ ReadsAt read (o + bytes.length) bytes' := by
  refine ⟨fun k hk => ?_, fun k hk => ?_⟩
  · rw [h k (by rw [List.length_append]; omega), List.getElem_append_left hk]
  · rw [Nat.add_assoc, h (bytes.length + k) (by rw [List.length_append]; omega),
      List.getElem_append_right (Nat.le_add_right ..)]
    simp only [Nat.add_sub_cancel_left]

/-- The four bytes of a word are read back as the word (20_memory.md R85). -/
theorem ReadsAt.be32At_eq {v : Word} (h : ReadsAt read o (be32Bytes v)) : be32At read o = v := by
  obtain ⟨h0, h⟩ := h.cons
  obtain ⟨h1, h⟩ := h.cons
  obtain ⟨h2, h⟩ := h.cons
  rw [be32At, h0, h1, h2, h.cons.1, be32_be32Bytes]

end ReadsAt

/-- The input stands at offset 0 of IN_MEM. -/
theorem readsAt_input (s : State) : ReadsAt (inByte s) 0 s.input := fun k hk => by
  rw [Nat.zero_add, input_getElem]

/-- Bytes that stand in IN_MEM are the run at their offset. -/
theorem ReadsAt.inBytes_eq {s : State} {o : Nat} {bytes : List Byte} (h : ReadsAt (inByte s) o bytes) :
    inBytes s o bytes.length = bytes :=
  List.ext_getElem (inBytes_length ..) fun k _ hk => by rw [inBytes_getElem _ _ _ _ hk, h k hk]

/-! The table (R111, R112). -/

/-- The record loop reads the records of the symbols from `sym` on, behind a table that has the entries below `sym` and
no other. -/
theorem parseRecords_tableRecords {read : Nat → Byte} {freq f : Vector Word 256} {fs : List Word} {sym k o : Nat}
    {prev : Int} (hfs : freq.toList.drop sym = fs) (hreads : ReadsAt read o (tableRecords fs sym))
    (hk : (tableRecords fs sym).length = 5 * k) (hprev : prev < sym)
    (hf : ∀ i, ∀ h : i < 256, f[i] = if i < sym then freq[i] else 0) :
    parseRecords read k o prev f = .ok freq := by
  induction fs generalizing sym k o prev f with
  | nil =>
    obtain rfl : k = 0 := by simpa [tableRecords] using hk
    have hsym : 256 ≤ sym := by simpa using hfs
    have heq : f = freq := Vector.ext fun i hi => by rw [hf i hi, if_pos (by omega)]
    rw [parseRecords, heq]
  | cons w fs ih =>
    have hsym : sym < 256 := by
      by_contra hge
      rw [List.drop_of_length_le (by simpa using hge)] at hfs
      cases hfs
    rw [List.drop_eq_getElem_cons (by simpa using hsym)] at hfs
    obtain ⟨hw, hfs⟩ := List.cons.inj hfs
    rw [Vector.getElem_toList] at hw
    by_cases hzero : w = 0
    · rw [tableRecords, if_pos hzero] at hreads hk
      refine ih hfs hreads hk (by omega) fun i hi => ?_
      rw [hf i hi]
      rcases Nat.lt_trichotomy i sym with hlt | rfl | hgt
      · rw [if_pos hlt, if_pos (by omega)]
      · rw [if_neg (by omega), if_pos (by omega), hw, hzero]
      · rw [if_neg (by omega), if_neg (by omega)]
    · rw [tableRecords, if_neg hzero] at hreads hk
      obtain ⟨hrecord, hrest⟩ := hreads.append
      obtain ⟨hsymbol, hcount⟩ := hrecord.cons
      have hlen : (BitVec.ofNat 8 sym :: be32Bytes w).length = 5 := rfl
      rw [List.length_append, hlen] at hk
      obtain ⟨k, rfl⟩ : ∃ k', k = k' + 1 := ⟨k - 1, by omega⟩
      have hnat : (read o).toNat = sym := by rw [hsymbol, BitVec.toNat_ofNat, Nat.mod_eq_of_lt hsym]
      simp only [parseRecords, hnat, hcount.be32At_eq, if_neg hzero, if_neg (Int.not_le.2 hprev)]
      refine ih hfs (hlen ▸ hrest) (by omega) (by omega) fun i hi => ?_
      rw [Vector.getElem_set]
      rcases Nat.lt_trichotomy i sym with hlt | rfl | hgt
      · rw [if_neg (by omega), hf i hi, if_pos hlt, if_pos (by omega)]
      · rw [if_pos rfl, if_pos (by omega), hw]
      · rw [if_neg (by omega), hf i hi, if_neg (by omega), if_neg (by omega)]

/-- The table has five bytes for each of its symbols. -/
theorem tableRecords_length_eq (freq : Vector Word 256) :
    (tableRecords freq.toList 0).length = 5 * (tableSymbols freq).length := by
  rw [tableRecords_length, leavesOf_freq, List.length_map]

/-! The container (R107 to R110). -/

/-- A canonical header, with bits to drop where there is padding, is read back as the table, the padding-count and the
payload's place. -/
theorem parseContainer_containerHeader {read : Nat → Byte} {freq : Vector Word 256} {pad : BitVec 3}
    {payload : List Byte} (hreads : ReadsAt read 0 (containerHeader freq pad ++ payload))
    (hpad : pad ≠ 0 → payload ≠ []) :
    parseContainer read (containerHeader freq pad ++ payload).length =
      .ok { freq := freq, pad := pad.setWidth 8, payloadOff := headerLen (tableSymbols freq).length,
            payloadLen := payload.length } := by
  have hlen : (containerHeader freq pad ++ payload).length = headerLen (tableSymbols freq).length + payload.length := by
    rw [List.length_append, containerHeader_length, buildTree_nsym]
  have htable := tableRecords_length_eq freq
  have hsyms := tableSymbols_length_le freq
  obtain ⟨hheader, -⟩ := hreads.append
  obtain ⟨hprefix, hpadByte⟩ := hheader.append
  obtain ⟨hlength, hrecords⟩ := hprefix.append
  have hprefixLen : (be32At read 0).toNat = 5 * (tableSymbols freq).length := by
    rw [hlength.be32At_eq, htable]
    exact Nat.mod_eq_of_lt (by omega)
  have hparsed : parseRecords read (tableSymbols freq).length 4 (-1) (tabulate 256 fun _ => 0) = .ok freq :=
    parseRecords_tableRecords (sym := 0) rfl hrecords htable (by omega) fun i hi => by
      rw [tabulate_getElem, if_neg (Nat.not_lt_zero i)]
  have hpadRead : read (4 + 5 * (tableSymbols freq).length) = pad.setWidth 8 := by
    have hbyte := hpadByte.cons.1
    rwa [Nat.zero_add, List.length_append, htable] at hbyte
  have hpadNat : (pad.setWidth 8).toNat = pad.toNat := by
    rw [BitVec.toNat_setWidth, Nat.mod_eq_of_lt (pad.isLt.trans (by decide))]
  have hdrop : pad.toNat > 0 → payload.length ≠ 0 := fun hpos hnil =>
    hpad (by rintro rfl; cases hpos) (List.length_eq_zero_iff.1 hnil)
  have hpadLt := pad.isLt
  rw [hlen, parseContainer, headerLen, if_neg (by omega)]
  simp only [hprefixLen, Nat.mul_div_cancel_left _ (show 0 < 5 by decide), hparsed, hpadRead, hpadNat]
  rw [if_neg (by omega), if_neg (by omega), if_neg (by omega), if_neg (by omega)]
  congr 2
  omega

end Sys2Proof.Machine
end

section
/-! PROOFS. The codes of a table do not depend on what the node store holds behind its tree (42_code_table.md rule R170,
10_state.md rule R46). -/

namespace Sys2Proof.Machine

/-- The walk of GEN_CODES reads only nodes of the tree. -/
theorem TreeOf.walkCodes_congr {nodes nodes' : Vector Node 511} {root : NodeIx} {freq : Vector Word 256}
    (h : TreeOf nodes root freq) (hagree : ∀ i : NodeIx, i.toNat ≤ root.toNat → nodeAt nodes i = nodeAt nodes' i)
    (fuel : Nat) {i : NodeIx} (hi : i.toNat ≤ root.toNat) (p : BitString) (c : Vector BitString 256) :
    walkCodes nodes fuel i p c = walkCodes nodes' fuel i p c := by
  induction fuel generalizing i p c with
  | zero => rfl
  | succ fuel ih =>
    cases hnode : nodeAt nodes i with
    | leaf sym w => rw [walkCodes_leaf hnode, walkCodes_leaf ((hagree i hi).symm.trans hnode)]
    | internal w left right =>
      obtain ⟨-, hchild⟩ := h.internal_lt hi hnode
      have hleft : left.toNat ≤ root.toNat := (hchild false).le.trans hi
      have hright : right.toNat ≤ root.toNat := (hchild true).le.trans hi
      rw [walkCodes_internal hnode, walkCodes_internal ((hagree i hi).symm.trans hnode), ih hleft, ih hright]

/-- Two stores that hold the tree of one table agree on its nodes. -/
theorem nodeAt_eq_of_treeFromFreq {s t : State} (hs : s.treeFromFreq) (ht : t.treeFromFreq) (hfreq : s.freq = t.freq)
    (hsyms : tableSymbols s.freq ≠ []) (i : NodeIx) (hi : i.toNat ≤ s.root.toNat) :
    nodeAt s.nodes i = nodeAt t.nodes i := by
  have hroot := (treeOf_of_treeFromFreq hs hsyms).root_eq
  have hpos := List.length_pos_iff.2 hsyms
  obtain ⟨-, -, -, -, hnodes⟩ := hs
  obtain ⟨-, -, -, -, hnodes'⟩ := ht
  rw [← hfreq] at hnodes'
  have hlt : i.toNat < (buildTree s.freq).nodes.length := by
    rw [buildTree_nodes_length, buildTree_nsym]
    omega
  rw [nodeAt_eq_nodeNo, nodeAt_eq_nodeNo, stores_of_take hnodes _ hlt, stores_of_take hnodes' _ hlt]

/-- Two stores that hold the tree of one table give the same codes. -/
theorem codesOf_eq_of_treeFromFreq {s t : State} (hs : s.treeFromFreq) (ht : t.treeFromFreq) (hfreq : s.freq = t.freq) :
    codesOf s.nodes s.root = codesOf t.nodes t.root := by
  have hroot : t.root = s.root := by
    obtain ⟨-, -, -, hsroot, -⟩ := hs
    obtain ⟨-, -, -, htroot, -⟩ := ht
    rw [hsroot, htroot, hfreq]
  rw [hroot]
  by_cases hsyms : tableSymbols s.freq = []
  · obtain ⟨-, -, -, hsroot, -⟩ := hs
    rw [hsroot, buildTree_root_empty hsyms, codesOf_nil, codesOf_nil]
  · have htree := treeOf_of_treeFromFreq hs hsyms
    have hagree := nodeAt_eq_of_treeFromFreq hs ht hfreq hsyms
    have hnode' := hagree s.root (Nat.le_refl _)
    cases hnode : nodeAt s.nodes s.root with
    | leaf sym w =>
      rw [codesOf_leaf htree.root_ne_nil hnode, codesOf_leaf htree.root_ne_nil (hnode'.symm.trans hnode)]
    | internal w left right =>
      rw [codesOf_internal htree.root_ne_nil hnode, codesOf_internal htree.root_ne_nil (hnode'.symm.trans hnode),
        htree.walkCodes_congr hagree 511 (Nat.le_refl _)]

end Sys2Proof.Machine
end

section
/-! PROOFS. What the step commands leave, and COMPRESS when it ends without an error (46_control.md rules R224 and
R227). -/

namespace Sys2Proof.Machine

/-! What the bodies of the step commands leave when they are done. -/

/-- The state FREQ_SCAN leaves (40_frequency.md R140). -/
def inputCounted (s : State) : State := State.invalidate { s with freq := countBytes s.input }

/-- The state BUILD_TREE leaves (41_tree_builder.md R150). -/
def treeStored (s : State) : State :=
  { s with
    nodes := storeNodes s.nodes (buildTree s.freq).nodes
    nsym := BitVec.ofNat 9 (buildTree s.freq).nsym
    nnodes := BitVec.ofNat 9 (buildTree s.freq).nodes.length
    root := (buildTree s.freq).root
    treeValid := true
    codesValid := false
    packed := false }

/-- The state GEN_CODES leaves (42_code_table.md R170). -/
def codesStored (s : State) : State := { s with codes := codesOf s.nodes s.root, codesValid := true, packed := false }

/-- The state FRAME leaves (45_container.md R200). -/
def headerWritten (s : State) : State :=
  { s with outMem := Memory.writeBytes s.outMem 0 (containerHeader s.freq s.pad) }

@[simp] theorem payloadWritten_freq (s : State) : (payloadWritten s).freq = s.freq := rfl

@[simp] theorem headerWritten_outLen (s : State) : (headerWritten s).outLen = s.outLen := rfl

/-- The store BUILD_TREE leaves holds the tree of FREQ. -/
theorem treeStored_treeFromFreq {s : State} (htotal : freqTotal s.freq ≤ 0xFFFFFFFF) : (treeStored s).treeFromFreq :=
  ⟨htotal, rfl, rfl, rfl, storeNodes_take (buildTree_nodes_length_le s.freq)⟩

/-- Within 32 bits the body of BUILD_TREE is done. -/
theorem buildTreeBody_of_total {s : State} (htotal : freqTotal s.freq ≤ 0xFFFFFFFF) :
    buildTreeBody s = .done (treeStored s) := by
  rcases buildTreeBody_cases s with ⟨sym, hsome, -⟩ | ⟨-, hbody⟩
  · rw [overflowSymbol_eq_none (by rwa [Nat.zero_add, ← freqTotal_eq_sum])] at hsome
    cases hsome
  · exact hbody

/-- A run of steps that is done has done its first step and then the others (46_control.md R227). -/
theorem exists_of_runSteps_done {body : State → Result} {rest : List (State → Result)} {s t : State}
    (h : runSteps (body :: rest) s = .done t) : ∃ s', body s = .done s' ∧ runSteps rest s' = .done t := by
  cases hbody : body s with
  | done s' => exact ⟨s', rfl, (runSteps_done rest hbody).symm.trans h⟩
  | raised s' e info => cases (runSteps_raised rest hbody).symm.trans h

/-- Header and payload fill the container PACK leaves room for. -/
theorem packedSize_eq (s : State) :
    headerLen s.nsym.toNat + (bitsToBytes (padded (bitStream s.codes s.input))).length = packedSize s := by
  rw [payload_length]
  rfl

/-- A PACK that is done has written the payload of an input within IN_CAP, in a container within OUT_CAP. -/
theorem packBody_done {s t : State} (h : packBody s = .done t) :
    s.inLen.toNat ≤ s.inCap ∧ packedSize s ≤ s.outCap ∧ t = payloadWritten s := by
  rcases packBody_cases s with ⟨-, hbody⟩ | ⟨-, -, hbody⟩ | ⟨-, -, _, -, hbody⟩ |
    ⟨-, hlen, -, _, _, rfl, rfl, ⟨-, hbody⟩ | ⟨hfits, hbody⟩⟩ <;> cases hbody.symm.trans h
  rw [packedSize_eq] at hfits ⊢
  exact ⟨hlen, hfits, rfl⟩

/-- A run of OUT_MEM is a first part of it and the rest. -/
theorem outBytes_add (t : State) (base m n : Nat) :
    outBytes t base (m + n) = outBytes t base m ++ outBytes t (base + m) n := by
  simp only [outBytes, List.range_add, List.map_append, List.map_map, Function.comp_def, Nat.add_assoc]

/-- FRAME writes the header's bytes (45_container.md R200). -/
theorem headerWritten_outMem (s : State) :
    (headerWritten s).outMem = Memory.writeBytes s.outMem 0 (containerHeader s.freq s.pad) := rfl

/-- FRAME leaves every byte behind the header as it was. -/
theorem outByte_headerWritten_behind (s : State) (k : Nat) :
    outByte (headerWritten s) ((containerHeader s.freq s.pad).length + k) =
      outByte s ((containerHeader s.freq s.pad).length + k) :=
  outByte_writeBytes_outside (headerWritten_outMem s) rfl (.inr (by omega))

/-- Behind FRAME's header OUT_MEM reads on as it did. -/
theorem outBytes_headerWritten (s : State) (n : Nat) :
    outBytes (headerWritten s) 0 ((containerHeader s.freq s.pad).length + n) =
      containerHeader s.freq s.pad ++ outBytes s (containerHeader s.freq s.pad).length n := by
  rw [outBytes_add, outBytes_writeBytes (headerWritten_outMem s), Nat.zero_add, outBytes,
    funext (outByte_headerWritten_behind s), ← outBytes]

/-- FRAME's header and PACK's payload make up the container: the room PACK leaves is the header's (43_bit_packer.md
R183). -/
theorem outBytes_container {s : State} (hnsym : s.nsym.toNat = (tableSymbols s.freq).length) :
    outBytes (headerWritten (payloadWritten s)) 0 (packedSize s) =
      containerHeader s.freq (payloadWritten s).pad ++ bitsToBytes (padded (bitStream s.codes s.input)) := by
  have hlen : (containerHeader s.freq (payloadWritten s).pad).length = headerLen s.nsym.toNat := by
    rw [containerHeader_length, buildTree_nsym, hnsym]
  have hpayload : outBytes (payloadWritten s) (headerLen s.nsym.toNat)
      (bitsToBytes (padded (bitStream s.codes s.input))).length = _ := outBytes_writeBytes (s := s) rfl
  have hcontainer := outBytes_headerWritten (payloadWritten s)
    (bitsToBytes (padded (bitStream s.codes s.input))).length
  rw [payloadWritten_freq, hlen, packedSize_eq, hpayload] at hcontainer
  exact hcontainer

/-! COMPRESS. -/

/-- The state COMPRESS packs from: the counts, the tree and the codes of the input. -/
def readyToPack (s : State) : State := codesStored (treeStored (inputCounted s))

/-- A COMPRESS that is done has packed a container within OUT_CAP and written its header. -/
theorem compressBody_done {s t : State} (h : compressBody s = .done t) :
    packedSize (readyToPack s) ≤ s.outCap ∧ t = headerWritten (payloadWritten (readyToPack s)) := by
  obtain ⟨s1, hscan, h⟩ := exists_of_runSteps_done h
  obtain ⟨s2, htree, h⟩ := exists_of_runSteps_done h
  obtain ⟨s3, hcodes, h⟩ := exists_of_runSteps_done h
  obtain ⟨s4, hpack, h⟩ := exists_of_runSteps_done h
  obtain ⟨s5, hframe, h⟩ := exists_of_runSteps_done h
  cases h
  obtain rfl : inputCounted s = s1 := by
    rcases freqScanBody_cases s with ⟨-, hbody⟩ | ⟨-, hbody⟩ <;> cases hbody.symm.trans hscan
    rfl
  obtain rfl : treeStored (inputCounted s) = s2 := by
    rcases buildTreeBody_cases (inputCounted s) with ⟨_, -, hbody⟩ | ⟨-, hbody⟩ <;> cases hbody.symm.trans htree
    rfl
  obtain rfl : readyToPack s = s3 := by
    rcases genCodesBody_cases (treeStored (inputCounted s)) with ⟨-, hbody⟩ | ⟨-, hbody⟩ <;>
      cases hbody.symm.trans hcodes
    rfl
  obtain ⟨-, hfits, rfl⟩ := packBody_done hpack
  refine ⟨hfits, ?_⟩
  rcases frameBody_cases (payloadWritten (readyToPack s)) with ⟨-, hbody⟩ | ⟨-, hbody⟩ <;>
    cases hbody.symm.trans hframe
  rfl

/-- A command that ends without an error has run its body to the end. -/
theorem bodyOf_done_of_err {i : Instr} {s t : State} (hexec : exec i s = .next t) (herr : t.err = false) :
    ∃ u, bodyOf i s = .done u ∧ t = u.finish .none 0 false := by
  rw [exec_eq_complete] at hexec
  cases hexec
  rcases complete_cases (bodyOf i s) with ⟨u, hbody, hcomplete⟩ | ⟨u, e, info, -, hcomplete⟩
  · exact ⟨u, hbody, hcomplete⟩
  · rw [hcomplete] at herr
    cases herr

/-- The counts of an input sum to its length, so BUILD_TREE takes them. -/
theorem freqTotal_countBytes_input_le (s : State) : freqTotal (countBytes s.input) ≤ 0xFFFFFFFF := by
  have hlen := input_length_lt s
  rw [freqTotal_countBytes hlen]
  omega

/-- COMPRESS packs with the tree of the input's counts in the store. -/
theorem readyToPack_treeFromFreq (s : State) : (readyToPack s).treeFromFreq :=
  treeStored_treeFromFreq (s := inputCounted s) (freqTotal_countBytes_input_le s)

end Sys2Proof.Machine
end

section
/-! PROOFS. DECOMPRESS on a canonical container (46_control.md rule R225), and the round trip (44_bit_unpacker.md rule
R198). -/

namespace Sys2Proof.Machine

/-! DECOMPRESS. -/

/-- The state PARSE leaves for the container of a table, a padding-count and `len` bytes of payload (45_container.md
R202). -/
def containerParsed (s : State) (freq : Vector Word 256) (pad : BitVec 3) (len : Nat) : State :=
  { s with
    freq := freq
    pad := pad
    payloadOff := BitVec.ofNat 32 (headerLen (tableSymbols freq).length)
    payloadLen := BitVec.ofNat 32 len
    parsed := true
    treeValid := false
    codesValid := false
    packed := false }

/-- The state DECOMPRESS unpacks from: the table of the container and its tree. -/
def readyToUnpack (s : State) (freq : Vector Word 256) (pad : BitVec 3) (len : Nat) : State :=
  treeStored (containerParsed s freq pad len)

section Container

variable {s : State} {freq : Vector Word 256} {pad : BitVec 3} {payload : List Byte}

/-- PARSE takes in a canonical container (45_container.md R202). -/
theorem parseBody_of_container (hlen : s.inLen.toNat ≤ s.inCap) (hinput : s.input = containerHeader freq pad ++ payload)
    (hpad : pad ≠ 0 → payload ≠ []) : parseBody s = .done (containerParsed s freq pad payload.length) := by
  have hparse := parseContainer_containerHeader (hinput ▸ readsAt_input s) hpad
  rw [← hinput, input_length] at hparse
  rcases parseBody_cases s with ⟨hgt, -⟩ | ⟨-, e, he, -⟩ | ⟨-, c, hc, hbody⟩
  · omega
  · cases hparse.symm.trans he
  · cases hparse.symm.trans hc
    have hkept : (pad.setWidth 8).setWidth 3 = pad := BitVec.setWidth_setWidth_of_le pad (by decide)
    rw [hbody, hkept]
    rfl

/-- The retained bits of a parsed container are those of its payload, less the padding (44_bit_unpacker.md R191). -/
theorem retainedBits_readyToUnpack (hinput : s.input = containerHeader freq pad ++ payload) :
    retainedBits (readyToUnpack s freq pad payload.length) =
      (bytesToBits payload).take (8 * payload.length - pad.toNat) := by
  have hlength : s.input.length = headerLen (tableSymbols freq).length + payload.length := by
    rw [hinput, List.length_append, containerHeader_length, buildTree_nsym]
  have hlt := input_length_lt s
  have hoff : (BitVec.ofNat 32 (headerLen (tableSymbols freq).length)).toNat = headerLen (tableSymbols freq).length :=
    Nat.mod_eq_of_lt (by omega)
  have hlen : (BitVec.ofNat 32 payload.length).toNat = payload.length := Nat.mod_eq_of_lt (by omega)
  obtain ⟨-, hpayload⟩ := (hinput ▸ readsAt_input s : ReadsAt (inByte s) 0 _).append
  rw [Nat.zero_add, containerHeader_length, buildTree_nsym] at hpayload
  show (bytesToBits (inBytes s (BitVec.ofNat 32 _).toNat (BitVec.ofNat 32 _).toNat)).take
    (8 * (BitVec.ofNat 32 _).toNat - pad.toNat) = _
  rw [hoff, hlen, hpayload.inBytes_eq]

/-- DECOMPRESS unpacks with the tree of the container's table in the store. -/
theorem readyToUnpack_treeFromFreq (htotal : freqTotal freq ≤ 0xFFFFFFFF) (len : Nat) :
    (readyToUnpack s freq pad len).treeFromFreq :=
  treeStored_treeFromFreq (s := containerParsed s freq pad len) htotal

/-- DECOMPRESS decodes a canonical container whose retained bits are codes of its table's tree (46_control.md R225). -/
theorem decompressBody_of_container {codes : Vector BitString 256} {out : List Byte} (hlen : s.inLen.toNat ≤ s.inCap)
    (hinput : s.input = containerHeader freq pad ++ payload) (hpad : pad ≠ 0 → payload ≠ [])
    (htotal : freqTotal freq ≤ 0xFFFFFFFF) (hsyms : ∀ b ∈ out, freq[b.toNat]'b.isLt ≠ 0)
    (hcodes : codes = codesOf (readyToUnpack s freq pad payload.length).nodes
      (readyToUnpack s freq pad payload.length).root)
    (hbits : (bytesToBits payload).take (8 * payload.length - pad.toNat) = bitStream codes out)
    (hfits : out.length ≤ s.outCap) :
    decompressBody s = .done (bytesUnpacked (readyToUnpack s freq pad payload.length) out) := by
  have hparse := parseBody_of_container hlen hinput hpad
  have htree : buildTreeBody (containerParsed s freq pad payload.length) =
      .done (readyToUnpack s freq pad payload.length) := buildTreeBody_of_total htotal
  have hfreq := readyToUnpack_treeFromFreq (s := s) (pad := pad) htotal payload.length
  have hunpack : unpackBody (readyToUnpack s freq pad payload.length) =
      .done (bytesUnpacked (readyToUnpack s freq pad payload.length) out) := by
    refine (unpackBody_of_valid rfl rfl).1 out ?_
    rw [retainedBits_readyToUnpack hinput, hbits, hcodes]
    exact decodeBits_bitStream (fun b hb => isCode_codesOf hfreq (hsyms b hb)) hfits
  rw [decompressBody, runSteps_done _ hparse, runSteps_done _ htree, runSteps_done _ hunpack, runSteps_nil]

end Container

/-! The round trip. -/

/-- The header PACK leaves room for is the one of the input's table. -/
theorem readyToPack_nsym (s : State) :
    (readyToPack s).nsym.toNat = (tableSymbols (readyToPack s).freq).length :=
  (treeBuilt_nsym (inputCounted s)).trans (buildTree_nsym _)

/-- A stream of no bits has no padding; any other has a payload to drop it from (30_encoding.md R110). -/
theorem payload_ne_nil_of_pad {bits : BitString} (hpad : BitVec.ofNat 3 (padCount bits.length) ≠ 0) :
    bitsToBytes (padded bits) ≠ [] := by
  intro hnil
  have hlen := payload_length bits
  rw [hnil, List.length_nil] at hlen
  have hzero : bits.length = 0 := by omega
  rw [hzero] at hpad
  exact hpad rfl

/-- Dropping the padding from the payload gives the stream back (43_bit_packer.md R182, 44_bit_unpacker.md R191). -/
theorem take_payload (bits : BitString) :
    (bytesToBits (bitsToBytes (padded bits))).take
      (8 * (bitsToBytes (padded bits)).length - (BitVec.ofNat 3 (padCount bits.length)).toNat) = bits := by
  have hpadNat : (BitVec.ofNat 3 (padCount bits.length)).toNat = padCount bits.length :=
    Nat.mod_eq_of_lt (Nat.lt_succ_of_le (padCount_spec bits.length).1)
  have hlen : 8 * ((bits.length + 7) / 8) - padCount bits.length = bits.length := by
    rw [padCount]
    omega
  rw [bytesToBits_bitsToBytes _ (by rw [padded_length, Nat.mul_mod_right]), payload_length, hpadNat, hlen, padded,
    List.take_left]

/-- The output of a COMPRESS that ended without an error is a canonical container of the input's table and codes. -/
theorem compressed_container {s t : State} (hcaps : s.capsLegal) (hexec : exec .compress s = .next t)
    (herr : t.err = false) :
    outBytes t 0 t.outLen.toNat =
      containerHeader (countBytes s.input)
          (BitVec.ofNat 3 (padCount (bitStream (readyToPack s).codes s.input).length)) ++
        bitsToBytes (padded (bitStream (readyToPack s).codes s.input)) := by
  obtain ⟨_, hbody, rfl⟩ := bodyOf_done_of_err hexec herr
  obtain ⟨hfits, rfl⟩ := compressBody_done hbody
  have houtLen : (payloadWritten (readyToPack s)).outLen.toNat = packedSize (readyToPack s) :=
    (payloadWritten_regs (s := readyToPack s) hcaps hfits).1
  rw [outBytes_finish, State.finish_outLen, headerWritten_outLen, houtLen]
  exact outBytes_container (readyToPack_nsym s)

/-- Settles O36: the output is a canonical container, and DECOMPRESS builds from its table the tree whose codes COMPRESS
packed. -/
theorem decompressOfCompressIsTheInput : Obligations.DecompressOfCompressIsTheInput := by
  intro s t u hs _ hexec herr _ huInput huFits hfits
  have hinput := huInput.trans (compressed_container hs hexec herr)
  have htotal := freqTotal_countBytes_input_le s
  have hlen := input_length_lt s
  have hcodes (pad : BitVec 3) (len : Nat) : (readyToPack s).codes = codesOf
      (readyToUnpack u (countBytes s.input) pad len).nodes (readyToUnpack u (countBytes s.input) pad len).root :=
    codesOf_eq_of_treeFromFreq (readyToPack_treeFromFreq s) (readyToUnpack_treeFromFreq htotal len) rfl
  have hsyms : ∀ b ∈ s.input, (countBytes s.input)[b.toNat]'b.isLt ≠ 0 := fun b hb => by
    rw [countBytes_getElem]
    exact (ofNat_count_ne_zero_iff hlen b).2 hb
  have hbody := decompressBody_of_container huFits hinput payload_ne_nil_of_pad htotal hsyms (hcodes _ _)
    (take_payload _) ((input_length s).trans_le hfits)
  obtain ⟨hexec', hsucceeded⟩ := exec_of_done (i := .decompress) hbody
  have houtLen : BitVec.ofNat 32 s.input.length = s.inLen := by
    rw [input_length, BitVec.ofNat_toNat, BitVec.setWidth_eq]
  refine ⟨_, hexec', hsucceeded, ?_, ?_⟩
  · rw [State.finish_outLen, bytesUnpacked_outLen, houtLen]
  · rw [outBytes_finish, State.finish_outLen, bytesUnpacked_outLen, houtLen, ← input_length, outBytes_bytesUnpacked]

end Sys2Proof.Machine
end

section
/-! PROOFS. FRAME (45_container.md rule R200): the header it writes, field by field (30_encoding.md rules R107 to
R112). -/

namespace Sys2Proof.Machine

/-! The table, record by record (30_encoding.md R111, R112). -/

/-- The record of a symbol and its count. -/
def symbolRecord (sym : Byte) (count : Word) : List Byte := sym :: be32Bytes count

@[simp] theorem symbolRecord_length (sym : Byte) (count : Word) : (symbolRecord sym count).length = 5 := rfl

/-- The table has the records of the leaves of its tree, in their order. -/
theorem tableRecords_eq_of_leavesOf {fs : List Word} {sym : Nat} {syms : List Byte} {count : Byte → Word}
    (h : leavesOf fs sym = syms.map fun v => .leaf v (count v)) :
    tableRecords fs sym = syms.flatMap fun v => symbolRecord v (count v) := by
  induction fs generalizing sym syms with
  | nil =>
    obtain rfl : syms = [] := List.map_eq_nil_iff.1 h.symm
    rfl
  | cons w fs ih =>
    rw [leavesOf] at h
    rw [tableRecords]
    by_cases hw : w = 0
    · rw [if_pos hw] at h ⊢
      exact ih h
    · rw [if_neg hw] at h ⊢
      obtain ⟨v, vs, rfl, hleaf, hrest⟩ := List.map_eq_cons_iff.1 h.symm
      obtain ⟨rfl, rfl⟩ := Node.leaf.inj hleaf
      rw [ih hrest.symm]
      rfl

/-- The table has a record for each of its symbols, in ascending order. -/
theorem tableRecords_eq_flatMap (freq : Vector Word 256) :
    tableRecords freq.toList 0 =
      (tableSymbols freq).flatMap fun v => symbolRecord v (freq[v.toNat]'v.isLt) :=
  tableRecords_eq_of_leavesOf (leavesOf_freq freq)

/-- Record `k` of records that stand one behind the other stands `5k` bytes behind the first. -/
theorem ReadsAt.record {read : Nat → Byte} {o : Nat} {syms : List Byte} {count : Byte → Word}
    (h : ReadsAt read o (syms.flatMap fun v => symbolRecord v (count v))) {k : Nat} (hk : k < syms.length) :
    ReadsAt read (o + 5 * k) (symbolRecord syms[k] (count syms[k])) := by
  induction syms generalizing o k with
  | nil => cases hk
  | cons v vs ih =>
    rw [List.flatMap_cons] at h
    obtain ⟨hfirst, hrest⟩ := h.append
    cases k with
    | zero => exact hfirst
    | succ k =>
      have hrecord := ih hrest (Nat.lt_of_succ_lt_succ hk)
      rwa [symbolRecord_length, Nat.add_assoc, Nat.add_comm 5, ← Nat.mul_succ] at hrecord

/-- A record is read back as its symbol and its count. -/
theorem ReadsAt.symbol_count {read : Nat → Byte} {o : Nat} {sym : Byte} {count : Word}
    (h : ReadsAt read o (symbolRecord sym count)) : read o = sym ∧ be32At read (o + 1) = count :=
  ⟨h.cons.1, h.cons.2.be32At_eq⟩

/-! The header (R107 to R110). -/

/-- The table's length, the records and the padding byte of a header that stands at offset 0. -/
theorem ReadsAt.header {read : Nat → Byte} {freq : Vector Word 256} {pad : BitVec 3}
    (h : ReadsAt read 0 (containerHeader freq pad)) :
    be32At read 0 = BitVec.ofNat 32 (5 * (tableSymbols freq).length) ∧
      (∀ k, ∀ hk : k < (tableSymbols freq).length, read (4 + 5 * k) = (tableSymbols freq)[k] ∧
        be32At read (4 + 5 * k + 1) = freq[(tableSymbols freq)[k].toNat]'(tableSymbols freq)[k].isLt) ∧
      read (4 + 5 * (tableSymbols freq).length) = pad.setWidth 8 := by
  obtain ⟨hfront, hpad⟩ := h.append
  obtain ⟨hprefix, htable⟩ := hfront.append
  have hpadByte := hpad.cons.1
  rw [Nat.zero_add, List.length_append, tableRecords_length_eq] at hpadByte
  rw [tableRecords_eq_flatMap] at htable
  refine ⟨?_, fun k hk => (htable.record hk).symbol_count, hpadByte⟩
  rw [hprefix.be32At_eq, tableRecords_length_eq]

/-! FRAME. -/

/-- After FRAME the header stands at offset 0 of OUT_MEM. -/
theorem readsAt_headerWritten (s : State) : ReadsAt (outByte (headerWritten s)) 0 (containerHeader s.freq s.pad) :=
  fun _ hk => outByte_writeBytes_inside (headerWritten_outMem s) hk

/-- FRAME leaves OUT_MEM outside the header as it was. -/
theorem headerWritten_keepsOutOutside (s : State) :
    KeepsOutOutside s (headerWritten s) 0 (headerLen (tableSymbols s.freq).length) := fun a ha => by
  refine outByte_writeBytes_outside (headerWritten_outMem s) rfl (ha.imp_right fun h => ?_)
  rwa [Nat.zero_add, containerHeader_length, buildTree_nsym]

/-- With PACKED 1 FRAME succeeds and leaves the header. -/
theorem exec_frame {s : State} (hpacked : s.packed = true) :
    exec .frame s = .next ((headerWritten s).finish .none 0 false) ∧
      Succeeded s ((headerWritten s).finish .none 0 false) := by
  rcases frameBody_cases s with ⟨hmissing, -⟩ | ⟨-, hbody⟩
  · cases hpacked.symm.trans hmissing
  · exact exec_of_done (i := .frame) hbody

/-- The count of record `k` stands one byte behind its symbol (30_encoding.md R111). -/
theorem be32At_record (read : Nat → Byte) (k : Nat) :
    be32 (read (5 + 5 * k)) (read (6 + 5 * k)) (read (7 + 5 * k)) (read (8 + 5 * k)) = be32At read (4 + 5 * k + 1) := by
  rw [be32At]
  congr 2 <;> omega

/-- Settles O21: the header is read back field by field from where FRAME wrote it, and the rest is the body's frame. -/
theorem frameWritesTheHeader : Obligations.FrameWritesTheHeader := by
  rintro s syms hpacked rfl
  obtain ⟨hexec, hsucceeded⟩ := exec_frame hpacked
  obtain ⟨hprefix, hrecords, hpad⟩ := (readsAt_headerWritten s).header
  refine ⟨_, hexec, hsucceeded, hprefix, fun k hk => ?_, hpad, headerWritten_keepsOutOutside s,
    ⟨rfl, rfl, rfl, rfl⟩, rfl, ⟨rfl, rfl, rfl, rfl⟩, rfl, ⟨rfl, rfl⟩, rfl, rfl, rfl⟩
  rw [be32At_record]
  exact hrecords k hk

end Sys2Proof.Machine
end

section
/-! PROOFS. How PARSE refuses: the causes in their order (45_container.md rules R202 and R203). -/

namespace Sys2Proof.Machine

/-! The record loop on the container in IN_MEM (R202). -/

/-- The record loop's `prev` at record `k`: the symbol of the record before, -1 at the first. -/
def symbolBefore (s : State) : Nat → Int
  | 0 => -1
  | k + 1 => (recordSymbol s k).toNat

theorem symbolBefore_lt_iff (s : State) (k : Nat) (v : Byte) :
    symbolBefore s k < v.toNat ↔ ∀ j, k = j + 1 → (recordSymbol s j).toNat < v.toNat := by
  cases k with
  | zero => exact iff_of_true (by simp only [symbolBefore]; omega) nofun
  | succ k => simp [symbolBefore]

/-- What the record loop does at record `k`: one of its two errors, or on to the next record with this one's count in
the table. -/
theorem parseRecords_succ_cases (s : State) (n k : Nat) (f : Vector Word 256) :
    ((recordSymbol s k).toNat ≤ symbolBefore s k ∧
      parseRecords (inByte s) (n + 1) (4 + 5 * k) (symbolBefore s k) f = .error (.mcTableOrder, 4 + 5 * k)) ∨
    (symbolBefore s k < (recordSymbol s k).toNat ∧ recordCount s k = 0 ∧
      parseRecords (inByte s) (n + 1) (4 + 5 * k) (symbolBefore s k) f = .error (.mcTableZero, 4 + 5 * k)) ∨
    (symbolBefore s k < (recordSymbol s k).toNat ∧ recordCount s k ≠ 0 ∧
      parseRecords (inByte s) (n + 1) (4 + 5 * k) (symbolBefore s k) f =
        parseRecords (inByte s) n (4 + 5 * (k + 1)) (symbolBefore s (k + 1))
          (f.set (recordSymbol s k).toNat (recordCount s k) (recordSymbol s k).isLt)) := by
  have hsymbol : inByte s (4 + 5 * k) = recordSymbol s k := rfl
  have hcount : be32At (inByte s) (4 + 5 * k + 1) = recordCount s k := (be32At_record ..).symm
  simp only [parseRecords, hsymbol, hcount]
  by_cases horder : (recordSymbol s k).toNat ≤ symbolBefore s k
  · exact .inl ⟨horder, if_pos horder⟩
  rw [if_neg horder]
  by_cases hzero : recordCount s k = 0
  · exact .inr (.inl ⟨Int.not_le.1 horder, hzero, if_pos hzero⟩)
  · exact .inr (.inr ⟨Int.not_le.1 horder, hzero, if_neg hzero⟩)

/-- The record loop passes over good records. -/
theorem parseRecords_of_recordGood {s : State} {k : Nat} (hgood : ∀ j, j < k → recordGood s j) :
    ∃ f, ∀ n, parseRecords (inByte s) (n + k) 4 (-1) (tabulate 256 fun _ => 0) =
      parseRecords (inByte s) n (4 + 5 * k) (symbolBefore s k) f := by
  induction k with
  | zero => exact ⟨_, fun _ => rfl⟩
  | succ k ih =>
    obtain ⟨f, hf⟩ := ih fun j hj => hgood j (hj.trans k.lt_succ_self)
    obtain ⟨horder, hnonzero⟩ := hgood k k.lt_succ_self
    rw [← symbolBefore_lt_iff] at horder
    refine ⟨f.set (recordSymbol s k).toNat (recordCount s k) (recordSymbol s k).isLt, fun n => ?_⟩
    rw [← Nat.add_assoc, Nat.add_right_comm, hf]
    rcases parseRecords_succ_cases s n k f with ⟨hle, -⟩ | ⟨-, hzero, -⟩ | ⟨-, -, hnext⟩
    · omega
    · exact absurd hzero hnonzero
    · exact hnext

/-! IN_LEN_RANGE and the causes 1 to 3 (R203). -/

/-- A refused container makes PARSE fail with the cause, and PARSED 0 is all it changes. -/
theorem exec_parse_refused {s : State} {e : ErrCode} {info : Nat} (hlen : s.inLen.toNat ≤ s.inCap)
    (h : parseContainer (inByte s) s.inLen.toNat = .error (e, info)) :
    ∃ t, exec .parse s = .next t ∧ Failed s t e (errInfoWord info) ∧ KeepsResults s t ∧ t.parsed = false := by
  rcases parseBody_cases s with ⟨hgt, -⟩ | ⟨-, e', he, hbody⟩ | ⟨-, c, hc, -⟩
  · omega
  · cases h.symm.trans he
    obtain ⟨hexec, hfailed⟩ := exec_of_raised (i := .parse) hbody
    exact ⟨_, hexec, hfailed, takeError_keepsResults { s with parsed := false } e info, rfl⟩
  · cases h.symm.trans hc

/-- Above IN_CAP, PARSE fails with IN_LEN_RANGE. -/
theorem exec_parse_range {s : State} (hlen : s.inCap < s.inLen.toNat) :
    exec .parse s = .next (s.takeError .inLenRange s.inLen.toNat) ∧
      Failed s (s.takeError .inLenRange s.inLen.toNat) .inLenRange s.inLen := by
  rcases parseBody_cases s with ⟨-, hbody⟩ | ⟨hle, -⟩ | ⟨hle, -⟩
  · simpa only [errInfoWord_toNat] using exec_of_raised (i := .parse) hbody
  · omega
  · omega

/-- The first four bytes are read as the table's length (30_encoding.md R109). -/
theorem be32At_zero (s : State) : be32At (inByte s) 0 = lengthPrefix s := by rw [be32At, lengthPrefix]

/-- Cause 1: no room for the table's length. -/
theorem parseContainer_short {s : State} (hshort : s.inLen.toNat < 4) :
    parseContainer (inByte s) s.inLen.toNat = .error (.mcShortHeader, s.inLen.toNat) :=
  if_pos hshort

/-- Cause 2: the table and the padding byte do not fit. -/
theorem parseContainer_length {s : State} (hlong : 4 ≤ s.inLen.toNat)
    (hprefix : s.inLen.toNat < 5 + (lengthPrefix s).toNat) :
    parseContainer (inByte s) s.inLen.toNat = .error (.mcLength, (lengthPrefix s).toNat) := by
  rw [parseContainer, if_neg (Nat.not_lt.2 hlong)]
  exact if_pos hprefix

/-- Cause 3: no whole records, or too many. -/
theorem parseContainer_format {s : State} (hlong : 4 ≤ s.inLen.toNat)
    (hprefix : 5 + (lengthPrefix s).toNat ≤ s.inLen.toNat)
    (hformat : (lengthPrefix s).toNat % 5 ≠ 0 ∨ 1280 < (lengthPrefix s).toNat) :
    parseContainer (inByte s) s.inLen.toNat = .error (.mcTableFormat, (lengthPrefix s).toNat) := by
  rw [parseContainer, if_neg (Nat.not_lt.2 hlong)]
  simp only [be32At_zero]
  rw [if_neg (Nat.not_lt.2 hprefix), if_pos hformat]

/-- Settles O24: IN_LEN_RANGE and the causes 1 to 3, one by one. -/
theorem parseRefusesABadPrefix : Obligations.ParseRefusesABadPrefix := by
  refine fun s => ⟨fun hlen => ?_, fun hlen hshort => ?_, fun hlen hlong hprefix => ?_,
    fun hlen hlong hprefix hformat => ?_⟩
  · obtain ⟨hexec, hfailed⟩ := exec_parse_range hlen
    exact ⟨_, hexec, hfailed, takeError_keepsResults s .inLenRange _, rfl⟩
  · simpa only [errInfoWord_toNat] using exec_parse_refused hlen (parseContainer_short hshort)
  · simpa only [errInfoWord_toNat] using exec_parse_refused hlen (parseContainer_length hlong hprefix)
  · simpa only [errInfoWord_toNat] using exec_parse_refused hlen (parseContainer_format hlong hprefix hformat)

/-! The causes 4 to 7 (R203). -/

/-- What the record loop makes of the table in IN_MEM. -/
def tableRead (s : State) : Except (ErrCode × Nat) (Vector Word 256) :=
  parseRecords (inByte s) ((lengthPrefix s).toNat / 5) 4 (-1) (tabulate 256 fun _ => 0)

/-- The padding byte of the container in IN_MEM (30_encoding.md R110). -/
def paddingByte (s : State) : Byte := inByte s (4 + (lengthPrefix s).toNat)

/-- Past causes 1 to 3, what decides is the record loop, and after it causes 6 and 7. -/
theorem parseContainer_of_prefixGood {s : State} (hgood : s.prefixGood) :
    (∃ e, tableRead s = .error e ∧ parseContainer (inByte s) s.inLen.toNat = .error e) ∨
    ∃ f, tableRead s = .ok f ∧
      ((7 < (paddingByte s).toNat ∧
          parseContainer (inByte s) s.inLen.toNat = .error (.mcPadding, (paddingByte s).toNat)) ∨
        (0 < (paddingByte s).toNat ∧ (paddingByte s).toNat ≤ 7 ∧ s.inLen.toNat = 5 + (lengthPrefix s).toNat ∧
          parseContainer (inByte s) s.inLen.toNat = .error (.mcPadEmpty, (paddingByte s).toNat)) ∨
        ((paddingByte s).toNat ≤ 7 ∧ (0 < (paddingByte s).toNat → 5 + (lengthPrefix s).toNat < s.inLen.toNat) ∧
          parseContainer (inByte s) s.inLen.toNat = .ok
            { freq := f, pad := paddingByte s, payloadOff := 5 + (lengthPrefix s).toNat,
              payloadLen := s.inLen.toNat - 5 - (lengthPrefix s).toNat })) := by
  obtain ⟨-, hlong, hprefix, hmod, hmax⟩ := hgood
  rw [parseContainer, if_neg (Nat.not_lt.2 hlong)]
  simp only [be32At_zero]
  rw [if_neg (Nat.not_lt.2 hprefix), if_neg (by omega), ← tableRead, ← paddingByte]
  cases tableRead s with
  | error e => exact .inl ⟨e, rfl, rfl⟩
  | ok f =>
    refine .inr ⟨f, rfl, ?_⟩
    dsimp only
    by_cases hpad : 7 < (paddingByte s).toNat
    · exact .inl ⟨hpad, if_pos hpad⟩
    rw [if_neg hpad]
    by_cases hempty : 0 < (paddingByte s).toNat ∧ s.inLen.toNat - 5 - (lengthPrefix s).toNat = 0
    · exact .inr (.inl ⟨hempty.1, Nat.not_lt.1 hpad, by omega, if_pos hempty⟩)
    · exact .inr (.inr ⟨Nat.not_lt.1 hpad, by omega, if_neg hempty⟩)

/-- Past causes 1 to 3 and the good records before it, a record the loop refuses refuses the container. -/
theorem parseContainer_of_bad_record {s : State} {k : Nat} {e : ErrCode × Nat} (hprefix : s.prefixGood)
    (hk : 5 * k < (lengthPrefix s).toNat) (hgood : ∀ j, j < k → recordGood s j)
    (hbad : ∀ n f, parseRecords (inByte s) (n + 1) (4 + 5 * k) (symbolBefore s k) f = .error e) :
    parseContainer (inByte s) s.inLen.toNat = .error e := by
  obtain ⟨f, hloop⟩ := parseRecords_of_recordGood hgood
  obtain ⟨n, hn⟩ : ∃ n, (lengthPrefix s).toNat / 5 = n + 1 + k := ⟨(lengthPrefix s).toNat / 5 - k - 1, by
    obtain ⟨-, -, -, hmod, -⟩ := hprefix
    omega⟩
  have hread : tableRead s = .error e := by rw [tableRead, hn, hloop, hbad]
  rcases parseContainer_of_prefixGood hprefix with ⟨e', hrecords, hcontainer⟩ | ⟨f', hrecords, -⟩
  · cases hread.symm.trans hrecords
    exact hcontainer
  · cases hread.symm.trans hrecords

/-- The offset of a record in the table is its information word. -/
theorem errInfoWord_record {s : State} {k : Nat} (hprefix : s.prefixGood) (hk : 5 * k < (lengthPrefix s).toNat) :
    errInfoWord (4 + 5 * k) = BitVec.ofNat 32 (4 + 5 * k) := by
  obtain ⟨-, -, -, -, hmax⟩ := hprefix
  exact errInfoWord_of_lt (by omega)

/-- Settles O25: the loop passes over the good records and refuses this one, for its order before its count. -/
theorem parseRefusesABadRecord : Obligations.ParseRefusesABadRecord := by
  intro s k hprefix hk hgood
  refine ⟨fun ⟨j, hj, hle⟩ => ?_, fun horder hzero => ?_⟩
  · have horder : ¬ symbolBefore s k < (recordSymbol s k).toNat := fun hlt =>
      Nat.not_lt.2 hle ((symbolBefore_lt_iff ..).1 hlt j hj)
    have hrefused := parseContainer_of_bad_record hprefix hk hgood fun n f => by
      rcases parseRecords_succ_cases s n k f with ⟨-, hbad⟩ | ⟨hlt, -⟩ | ⟨hlt, -⟩
      · exact hbad
      · exact absurd hlt horder
      · exact absurd hlt horder
    simpa only [errInfoWord_record hprefix hk] using exec_parse_refused hprefix.1 hrefused
  · have hrefused := parseContainer_of_bad_record hprefix hk hgood fun n f => by
      rcases parseRecords_succ_cases s n k f with ⟨hle, -⟩ | ⟨-, -, hbad⟩ | ⟨-, hnonzero, -⟩
      · exact absurd ((symbolBefore_lt_iff ..).2 horder) (Int.not_lt.2 hle)
      · exact hbad
      · exact absurd hzero hnonzero
    simpa only [errInfoWord_record hprefix hk] using exec_parse_refused hprefix.1 hrefused

/-- A byte is its own information word. -/
theorem errInfoWord_byte (b : Byte) : errInfoWord b.toNat = b.setWidth 32 := by
  rw [errInfoWord_of_lt (b.isLt.trans (by decide)), BitVec.ofNat_toNat]

/-- Good records make up a table. -/
theorem tableRead_ok {s : State} (hgood : ∀ j, 5 * j < (lengthPrefix s).toNat → recordGood s j) :
    ∃ f, tableRead s = .ok f := by
  obtain ⟨f, hloop⟩ := parseRecords_of_recordGood (s := s) (k := (lengthPrefix s).toNat / 5) fun j hj =>
    hgood j (by omega)
  have hend := hloop 0
  rw [Nat.zero_add] at hend
  exact ⟨f, hend⟩

/-- Settles O26: the records make up a table, and then the padding byte decides. -/
theorem parseRefusesBadPadding : Obligations.ParseRefusesBadPadding := by
  rintro s pad hprefix hgood rfl
  obtain ⟨f, hok⟩ := tableRead_ok hgood
  rw [← paddingByte, ← errInfoWord_byte]
  rcases parseContainer_of_prefixGood hprefix with ⟨e, hrecords, -⟩ |
    ⟨_, -, ⟨hgt, hrefused⟩ | ⟨-, hle, -, hrefused⟩ | ⟨hle, hpayload, -⟩⟩
  · cases hok.symm.trans hrecords
  · exact ⟨fun _ => exec_parse_refused hprefix.1 hrefused, fun _ hle => absurd hle (Nat.not_le.2 hgt)⟩
  · exact ⟨fun hgt => absurd hle (Nat.not_le.2 hgt), fun _ _ _ => exec_parse_refused hprefix.1 hrefused⟩
  · exact ⟨fun hgt => absurd hle (Nat.not_le.2 hgt), fun hpos _ hempty => absurd hempty (hpayload hpos).ne'⟩

end Sys2Proof.Machine
end

section
/-! PROOFS. What PARSE accepts: canonical containers (30_encoding.md rules R107 to R112, 45_container.md rules R202 to
R204). -/

namespace Sys2Proof.Machine

/-! The bytes of the table, from the table read (30_encoding.md R111, R112). -/

/-- A run of IN_MEM is a first part of it and the rest. -/
theorem inBytes_add (s : State) (base m n : Nat) :
    inBytes s base (m + n) = inBytes s base m ++ inBytes s (base + m) n := by
  simp only [inBytes, List.range_add, List.map_append, List.map_map, Function.comp_def, Nat.add_assoc]

/-- The bytes of a word that was read big-endian are the bytes it was read from. -/
theorem be32Bytes_be32 (b0 b1 b2 b3 : Byte) : be32Bytes (be32 b0 b1 b2 b3) = [b0, b1, b2, b3] := by
  have h0 := b0.isLt
  have h1 := b1.isLt
  have h2 := b2.isLt
  have h3 := b3.isLt
  simp only [be32Bytes, List.cons.injEq, and_true]
  refine ⟨?_, ?_, ?_, ?_⟩ <;> apply BitVec.eq_of_toNat_eq <;>
    simp only [BitVec.extractLsb'_toNat, be32_toNat, Nat.shiftRight_eq_div_pow] <;> omega

/-- Four bytes of IN_MEM are the bytes of the word they are read as. -/
theorem inBytes_four (s : State) (o : Nat) : inBytes s o 4 = be32Bytes (be32At (inByte s) o) := by
  rw [be32At, be32Bytes_be32]
  rfl

/-- The five bytes of a record are its symbol and the bytes of its count. -/
theorem inBytes_record (s : State) (k : Nat) :
    inBytes s (4 + 5 * k) 5 = symbolRecord (recordSymbol s k) (recordCount s k) := by
  rw [inBytes_add s _ 1 4, inBytes_four, ← be32At_record]
  rfl

/-- A table without a count has no records. -/
theorem tableRecords_eq_nil {fs : List Word} (sym : Nat) (h : ∀ w ∈ fs, w = 0) : tableRecords fs sym = [] := by
  induction fs generalizing sym with
  | nil => rfl
  | cons w fs ih =>
    obtain ⟨hw, hfs⟩ := List.forall_mem_cons.1 h
    rw [tableRecords, if_pos hw, ih (sym + 1) hfs]

/-- A count put behind all others adds its record at the end of the table. -/
theorem tableRecords_set {fs : List Word} {sym j : Nat} {w : Word} (hj : j < fs.length) (hw : w ≠ 0)
    (hzero : ∀ i, ∀ h : i < fs.length, j ≤ i → fs[i] = 0) :
    tableRecords (fs.set j w) sym = tableRecords fs sym ++ symbolRecord (BitVec.ofNat 8 (sym + j)) w := by
  induction fs generalizing sym j with
  | nil => cases hj
  | cons f fs ih =>
    cases j with
    | zero =>
      have hnil (n : Nat) (fs' : List Word) (h : ∀ x ∈ fs', x ∈ f :: fs) : tableRecords fs' n = [] :=
        tableRecords_eq_nil n fun x hx => by
          obtain ⟨i, hi, rfl⟩ := List.mem_iff_getElem.1 (h x hx)
          exact hzero i hi i.zero_le
      rw [List.set_cons_zero, tableRecords, if_neg hw, hnil _ fs fun _ => List.mem_cons_of_mem f,
        hnil sym _ fun _ => id, List.append_nil]
      rfl
    | succ j =>
      have hrest := ih (sym := sym + 1) (Nat.lt_of_succ_lt_succ hj) fun i hi hji =>
        hzero (i + 1) (Nat.succ_lt_succ hi) (Nat.succ_le_succ hji)
      rw [Nat.add_assoc, Nat.add_comm 1] at hrest
      rw [List.set_cons_succ, tableRecords, tableRecords, hrest]
      split
      · rfl
      · rw [List.append_assoc]

/-- The record loop, when it ends without an error, leaves a table whose records are those it started from and the bytes
it has read. -/
theorem tableRecords_of_parseRecords {s : State} {n k : Nat} {f g : Vector Word 256}
    (hzero : ∀ i : Nat, ∀ h : i < 256, symbolBefore s k < i → f[i] = 0)
    (h : parseRecords (inByte s) n (4 + 5 * k) (symbolBefore s k) f = .ok g) :
    tableRecords g.toList 0 = tableRecords f.toList 0 ++ inBytes s (4 + 5 * k) (5 * n) := by
  induction n generalizing k f with
  | zero =>
    cases h
    exact (List.append_nil _).symm
  | succ n ih =>
    rcases parseRecords_succ_cases s n k f with ⟨-, hbad⟩ | ⟨-, -, hbad⟩ | ⟨horder, hnonzero, hnext⟩
    · cases hbad.symm.trans h
    · cases hbad.symm.trans h
    · have hset := tableRecords_set (fs := f.toList) (sym := 0) (j := (recordSymbol s k).toNat)
        (by simpa using (recordSymbol s k).isLt) hnonzero fun i hi hji => by
          rw [Vector.length_toList] at hi
          rw [Vector.getElem_toList]
          exact hzero i hi (by omega)
      rw [Nat.zero_add, BitVec.ofNat_toNat, BitVec.setWidth_eq, ← inBytes_record] at hset
      have hrest := ih (fun i hi hlt => ?_) (hnext.symm.trans h)
      · rw [hrest, Vector.toList_set, hset, List.append_assoc, show 5 * (n + 1) = 5 + 5 * n by omega, inBytes_add]
        rfl
      · have hgt : (recordSymbol s k).toNat < i := Int.ofNat_lt.1 hlt
        rw [Vector.getElem_set_ne _ _ hgt.ne]
        exact hzero i hi (by omega)

/-! PARSE (45_container.md R202). -/

/-- A container that is accepted has passed causes 1 to 3. -/
theorem prefixGood_of_parseContainer {s : State} {c : ParsedContainer} (hlen : s.inLen.toNat ≤ s.inCap)
    (h : parseContainer (inByte s) s.inLen.toNat = .ok c) : s.prefixGood := by
  by_cases hshort : s.inLen.toNat < 4
  · cases (parseContainer_short hshort).symm.trans h
  have hlong := Nat.not_lt.1 hshort
  by_cases hprefix : s.inLen.toNat < 5 + (lengthPrefix s).toNat
  · cases (parseContainer_length hlong hprefix).symm.trans h
  by_cases hformat : (lengthPrefix s).toNat % 5 ≠ 0 ∨ 1280 < (lengthPrefix s).toNat
  · cases (parseContainer_format hlong (Nat.not_lt.1 hprefix) hformat).symm.trans h
  · exact ⟨hlen, hlong, by omega, by omega, by omega⟩

/-- A container that is accepted begins with the canonical header of what was read from it. -/
theorem containerHeader_of_tableRead {s : State} {f : Vector Word 256} (hprefix : s.prefixGood)
    (hread : tableRead s = .ok f) (hpad : (paddingByte s).toNat ≤ 7) :
    containerHeader f ((paddingByte s).setWidth 3) = inBytes s 0 (5 + (lengthPrefix s).toNat) := by
  obtain ⟨-, -, -, hmod, -⟩ := hprefix
  have htable : tableRecords f.toList 0 = inBytes s 4 (lengthPrefix s).toNat := by
    have hrecords := tableRecords_of_parseRecords (k := 0) (f := tabulate 256 fun _ => 0)
      (fun i hi _ => tabulate_getElem ..) hread
    have hnone : tableRecords (tabulate 256 fun _ => 0).toList 0 = [] := tableRecords_eq_nil 0 fun w hw => by
      obtain ⟨i, hi, rfl⟩ := List.mem_iff_getElem.1 hw
      rw [Vector.getElem_toList, tabulate_getElem]
    rw [hnone, List.nil_append, Nat.mul_div_cancel' (Nat.dvd_of_mod_eq_zero hmod)] at hrecords
    exact hrecords
  have hkept : ((paddingByte s).setWidth 3).setWidth 8 = paddingByte s := by
    apply BitVec.eq_of_toNat_eq
    simp only [BitVec.toNat_setWidth]
    omega
  have hprefixBytes : inBytes s 0 4 = be32Bytes (lengthPrefix s) := by rw [inBytes_four, be32At_zero]
  rw [containerHeader, htable, inBytes_length, hkept, BitVec.ofNat_toNat, BitVec.setWidth_eq, ← hprefixBytes,
    show 5 + (lengthPrefix s).toNat = 4 + (lengthPrefix s).toNat + 1 by omega, inBytes_add, inBytes_add,
    Nat.zero_add, Nat.zero_add]
  rfl

/-- A PARSE that is done has found a canonical container as its input, with bits to drop where there is padding. -/
theorem parseBody_done {s u : State} (h : parseBody s = .done u) :
    s.inLen.toNat ≤ s.inCap ∧ ∃ freq pad payload, s.input = containerHeader freq pad ++ payload ∧
      (pad ≠ 0 → payload ≠ []) := by
  rcases parseBody_cases s with ⟨-, hbody⟩ | ⟨-, e, -, hbody⟩ | ⟨hlen, c, hc, hbody⟩ <;> cases hbody.symm.trans h
  have hprefix := prefixGood_of_parseContainer hlen hc
  rcases parseContainer_of_prefixGood hprefix with ⟨e, -, hbad⟩ |
    ⟨f, hread, ⟨-, hbad⟩ | ⟨-, -, -, hbad⟩ | ⟨hpad, hdrop, -⟩⟩
  · cases hbad.symm.trans hc
  · cases hbad.symm.trans hc
  · cases hbad.symm.trans hc
  have ⟨_, _, hfits, _, _⟩ := hprefix
  have hsplit := inBytes_add s 0 (5 + (lengthPrefix s).toNat) (s.inLen.toNat - (5 + (lengthPrefix s).toNat))
  rw [Nat.add_sub_cancel' hfits, ← containerHeader_of_tableRead hprefix hread hpad, Nat.zero_add] at hsplit
  refine ⟨hlen, f, _, _, hsplit, fun hnonzero hnil => ?_⟩
  have hempty := congrArg List.length hnil
  rw [inBytes_length, List.length_nil] at hempty
  have hpos : 0 < (paddingByte s).toNat := Nat.pos_of_ne_zero fun hzero =>
    hnonzero (congrArg (BitVec.setWidth 3) (BitVec.eq_of_toNat_eq (y := 0#8) hzero))
  have := hdrop hpos
  omega

/-- The state PARSE leaves for a canonical container says where its payload lies. -/
theorem containerParsed_payload {s : State} {freq : Vector Word 256} {pad : BitVec 3} {payload : List Byte}
    (hinput : s.input = containerHeader freq pad ++ payload) :
    (containerParsed s freq pad payload.length).payloadOff.toNat = 5 + 5 * (tableSymbols freq).length ∧
      (containerParsed s freq pad payload.length).payloadLen.toNat = payload.length ∧
      5 + 5 * (tableSymbols freq).length + payload.length = s.inLen.toNat := by
  have hsize : s.input.length = 5 + 5 * (tableSymbols freq).length + payload.length := by
    rw [hinput, List.length_append, containerHeader_length, buildTree_nsym, headerLen]
  have hlt := input_length_lt s
  exact ⟨Nat.mod_eq_of_lt (a := headerLen _) (b := 2 ^ 32) (by rw [headerLen]; omega),
    Nat.mod_eq_of_lt (a := payload.length) (b := 2 ^ 32) (by omega), by rw [← hsize, input_length]⟩

/-- Settles O22: the body is done, and the header and the payload lie within the input, so their sizes fit. -/
theorem parseReadsACanonicalContainer : Obligations.ParseReadsACanonicalContainer := by
  intro s f pad payload hlen hinput hpad
  obtain ⟨hexec, hsucceeded⟩ := exec_of_done (i := .parse) (parseBody_of_container hlen hinput hpad)
  obtain ⟨hoff, hsize, -⟩ := containerParsed_payload hinput
  exact ⟨_, hexec, hsucceeded, rfl, rfl, hoff, hsize, rfl, rfl, rfl, rfl, ⟨rfl, rfl, rfl, rfl⟩, rfl, rfl, rfl,
    fun _ => rfl⟩

/-- Settles O23: the input is a canonical container, and of that one PARSE leaves the table, the padding-count and the
payload's place. -/
theorem parseAcceptsOnlyCanonicalContainers : Obligations.ParseAcceptsOnlyCanonicalContainers := by
  intro s t hexec herr
  obtain ⟨u, hbody, rfl⟩ := bodyOf_done_of_err hexec herr
  obtain ⟨hlen, freq, pad, payload, hinput, hpad⟩ := parseBody_done hbody
  obtain rfl : containerParsed s freq pad payload.length = u :=
    Result.done.inj ((parseBody_of_container hlen hinput hpad).symm.trans hbody)
  obtain ⟨hoff, hsize, hend⟩ := containerParsed_payload (pad := pad) hinput
  exact ⟨hlen, payload, hinput, hsize, by rw [State.finish_payloadOff, hoff, hend], hpad⟩

end Sys2Proof.Machine
end

section
/-! PROOFS. Whose step it is and what it does, the acceptance of a command, and the commands CLEAR and the illegal ones
(46_control.md rules R220 to R223 and R226). -/

namespace Sys2Proof.Machine

/-! The step, by whose turn it is. -/

theorem step_of_turnOf_core {s : State} {rest : List HostMove} (h : turnOf s = .core rest) :
    step s = exec (decode s.cmd) { s with script := rest } := by
  rw [step, h]

theorem step_of_turnOf_host {s : State} {m : HostMove} {rest : List HostMove} (h : turnOf s = .host m rest) :
    step s = .next (hostStep s m rest) := by
  rw [step, h]

/-- The host makes the first move of its script unless BUSY gives the turn to CORE there. -/
theorem turnOf_of_script {s : State} {m : HostMove} {rest : List HostMove} (hscript : s.script = m :: rest)
    (hm : s.busy = true → m ≠ .core ∧ m ≠ .wait) : turnOf s = .host m rest := by
  rcases turnOf_cases s with ⟨r, -, hbusy, hcore⟩ | ⟨_, _, hturn, hscript'⟩ | ⟨-, hnil, -⟩
  · obtain ⟨hnotCore, hnotWait⟩ := hm hbusy
    rw [hscript] at hcore
    rcases hcore with ⟨hnil, -⟩ | hcore | ⟨-, r', hwait⟩
    · cases hnil
    · exact absurd (List.cons.inj hcore).1 hnotCore
    · exact absurd (List.cons.inj hwait).1 hnotWait
  · cases hscript.symm.trans hscript'
    exact hturn
  · cases hscript.symm.trans hnil

/-- Where the host makes the first move of its script, the step is that move. -/
theorem step_of_script {s : State} {m : HostMove} {rest : List HostMove} (hscript : s.script = m :: rest)
    (hm : s.busy = true → m ≠ .core ∧ m ≠ .wait) : step s = .next (hostStep s m rest) :=
  step_of_turnOf_host (turnOf_of_script hscript hm)

/-- A bus transaction leaves the earlier replies to the host. -/
theorem BusEffect.replies_eq {s t : State} (h : BusEffect s t) : t.replies = s.replies := by
  cases h <;> rfl

/-- A read's reply stands before the replies the host has had. -/
theorem busRead_answer {s t : State} {addr : Word} {size : Nat} {reply : BusReply}
    (h : busRead s addr size = (t, reply)) (rest : List HostMove) :
    (busRead s addr size).1.answer (busRead s addr size).2 rest =
      { t with script := rest, replies := reply :: s.replies } := by
  rw [← (busRead_effect s addr size).replies_eq, h]
  rfl

/-- A write's reply stands before the replies the host has had. -/
theorem busWrite_answer {s t : State} {addr data : Word} {size : Nat} {reply : BusReply}
    (h : busWrite s addr size data = (t, reply)) (rest : List HostMove) :
    (busWrite s addr size data).1.answer (busWrite s addr size data).2 rest =
      { t with script := rest, replies := reply :: s.replies } := by
  rw [← (busWrite_effect s addr size data).replies_eq, h]
  rfl

/-- `dump` reads OUT_LEN and puts that many byte reads first in the script (30_encoding.md R122). -/
theorem hostStep_dump {s t : State} {n : Word} {resp : Resp} (h : busRead s outLenAddr 4 = (t, .read n resp))
    (rest : List HostMove) :
    hostStep s .dump rest =
      { t with script := dumpMoves n.toNat ++ rest, replies := .read n resp :: s.replies } := by
  rw [← busRead_answer h, hostStep, h, replyData]

/-- CORE has the turn only while BUSY. -/
theorem busy_of_turnOf_core {s : State} {rest : List HostMove} (h : turnOf s = .core rest) : s.busy = true := by
  rcases turnOf_cases s with ⟨_, -, hbusy, -⟩ | ⟨_, _, hturn, -⟩ | ⟨hturn, -⟩
  · exact hbusy
  · cases hturn.symm.trans h
  · cases hturn.symm.trans h

/-- The move the host makes is the first of its script. -/
theorem script_of_turnOf_host {s : State} {m : HostMove} {rest : List HostMove} (h : turnOf s = .host m rest) :
    s.script = m :: rest := by
  rcases turnOf_cases s with ⟨_, hturn, -⟩ | ⟨_, _, hturn, hscript⟩ | ⟨hturn, -⟩ <;> cases hturn.symm.trans h
  exact hscript

/-- Settles O5: the turn decides whose step it is, and a move's bus transaction hands its reply to the host. -/
theorem stepRunsTheDecodedCommand : Obligations.StepRunsTheDecodedCommand := by
  intro s rest
  refine ⟨fun hturn => ⟨busy_of_turnOf_core hturn, step_of_turnOf_core hturn⟩, fun hbusy => ⟨?_, ?_, ?_⟩, ?_,
    fun m hturn => ⟨script_of_turnOf_host hturn, step_of_turnOf_host hturn⟩, ?_, ?_, ?_, ?_, ?_⟩
  · exact fun hscript => by simp [turnOf, hscript, hbusy]
  · exact fun hscript => by simp [turnOf, hscript, hbusy]
  · exact fun hscript => by simp [turnOf, hscript, hbusy]
  · exact fun hidle hscript => by simp [step, turnOf, hscript, hidle]
  · intro addr size t reply hscript hbus
    rw [step_of_script hscript (by simp), hostStep, busRead_answer hbus]
  · intro addr size data t reply hscript hbus
    rw [step_of_script hscript (by simp), hostStep, busWrite_answer hbus]
  · intro t reply hidle hscript hbus
    rw [step_of_script hscript (by simp [hidle]), hostStep, busRead_answer (addr := statusAddr) hbus]
  · intro hidle hscript
    rw [step_of_script hscript (by simp [hidle]), hostStep]
  · intro t n resp hscript hbus
    rw [step_of_script hscript (by simp), hostStep_dump hbus]
    rfl

/-- Settles O6: a command completes whatever its body answers, and whoever has the turn has a step to make. -/
theorem everyCommandCompletes : Obligations.EveryCommandCompletes := by
  refine ⟨fun i s => ⟨_, exec_eq_complete i s, complete_completed i s⟩, fun s => ?_⟩
  cases hturn : turnOf s with
  | core rest => exact ⟨_, (step_of_turnOf_core hturn).trans (exec_eq_complete ..)⟩
  | host m rest => exact ⟨_, step_of_turnOf_host hturn⟩
  | idle => exact ⟨s, by rw [step, hturn]⟩

/-! CLEAR. -/

/-- Settles O7: the body of CLEAR is always done, and writes exactly the fields that R223 lists. -/
theorem clearReturnsToResetValues : Obligations.ClearReturnsToResetValues := by
  intro s
  obtain ⟨hexec, hsucceeded⟩ := exec_of_done (i := .clear) (s := s) rfl
  exact ⟨_, hexec, hsucceeded, fun v => by simp [freqOf], ⟨rfl, rfl, rfl, rfl⟩, rfl, rfl, rfl, rfl, rfl, rfl, rfl,
    rfl, fun _ => rfl, rfl, rfl⟩

/-! The illegal words. -/

/-- The illegal instructions are those of the three illegal rows. -/
theorem illegal_rows {i : Instr} (h : isIllegal i = true) :
    i = .illegalOpcode00 ∨ (∃ op, i = .illegalOpcode0BFF op) ∨ ∃ rsvd op, i = .illegalRsvd rsvd op := by
  cases i with
  | illegalOpcode00 => exact .inl rfl
  | illegalOpcode0BFF op => exact .inr (.inl ⟨op, rfl⟩)
  | illegalRsvd rsvd op => exact .inr (.inr ⟨rsvd, op, rfl⟩)
  | _ => cases h

/-- An illegal instruction fails with ILLEGAL_CMD and the word in CMD (46_control.md R226). -/
theorem exec_of_isIllegal {i : Instr} (h : isIllegal i = true) (s : State) :
    exec i s = .next (s.takeError .illegalCmd s.cmd.toNat) ∧
      Failed s (s.takeError .illegalCmd s.cmd.toNat) .illegalCmd s.cmd := by
  have hbody : bodyOf i s = .raised s .illegalCmd s.cmd.toNat := by rw [bodyOf_of_isIllegal h, illegalBody]
  simpa only [errInfoWord_toNat] using exec_of_raised hbody

/-- Settles O38: all three rows raise ILLEGAL_CMD in the state they find, and the decoder gives no other row for such
a word. -/
theorem illegalCommandsReportTheWord : Obligations.IllegalCommandsReportTheWord := by
  refine ⟨fun s i op rsvd hi => ?_, fun w hw => illegal_rows ((isIllegal_decode_iff w).2 hw)⟩
  have hillegal : isIllegal i = true := by rcases hi with rfl | rfl | rfl <;> rfl
  obtain ⟨hexec, hfailed⟩ := exec_of_isIllegal hillegal s
  exact ⟨_, hexec, hfailed, takeError_keepsResults s .illegalCmd _, rfl⟩

/-! The acceptance of a command. -/

/-- A write to CMD is dropped while BUSY, and is the acceptance of its word while IDLE (46_control.md R220). -/
theorem busWrite_cmd (s : State) (v : Word) :
    busWrite s 0x004#32 4 v = (if s.busy then s.dropWrite else s.accept v, .write .okay) :=
  busWrite_offset s (off := 0x004) v (by omega) rfl

/-- Settles O42: the acceptance writes CMD, BUSY and what it clears, and nothing else. -/
theorem cmdWriteIssuesTheCommand : Obligations.CmdWriteIssuesTheCommand := by
  intro s v
  rw [busWrite_cmd]
  refine ⟨fun hbusy => by rw [if_pos hbusy, State.dropWrite], fun hidle => ⟨s.accept v, by simp [hidle], ?_⟩⟩
  exact ⟨rfl, rfl, rfl, rfl, rfl, rfl, rfl, rfl, rfl, rfl, rfl, rfl, rfl,
    ⟨rfl, rfl, rfl, rfl, ⟨rfl, rfl, rfl, rfl⟩, rfl, ⟨rfl, rfl⟩, rfl, rfl, rfl, fun _ => rfl⟩, rfl, rfl⟩

end Sys2Proof.Machine
end

section
/-! PROOFS. The composites and their steps one by one (46_control.md rules R224, R225 and R227), and the prerequisite
flags of every command (R221). -/

namespace Sys2Proof.Machine

/-! The completion fields are no operand of a command. -/

/-- A step command ends the same way from a completed state: it reads none of the fields the completion writes. -/
theorem complete_bodyOf_finish {j : Instr} (hc : j ≠ .compress) (hd : j ≠ .decompress) (s : State) (e : ErrCode)
    (info : Word) (b : Bool) : complete (bodyOf j (s.finish e info b)) = complete (bodyOf j s) := by
  cases j with
  | clear | illegalOpcode00 | illegalOpcode0BFF | illegalRsvd => rfl
  | freqScan =>
    simp only [bodyOf, freqScanBody, apply_ite complete]
    rfl
  | buildTree =>
    simp only [bodyOf, buildTreeBody, State.finish_freq]
    cases overflowSymbol s.freq.toList 0 0 <;> rfl
  | genCodes =>
    simp only [bodyOf, genCodesBody, missingFlags_treeValid, apply_ite complete]
    rfl
  | pack =>
    have habsent : firstAbsent (s.finish e info b).codes (inBytes (s.finish e info b) 0 (s.finish e info b).inLen.toNat)
        0 = firstAbsent s.codes (inBytes s 0 s.inLen.toNat) 0 := rfl
    simp only [bodyOf, packBody, missingFlags_codesValid, apply_ite complete, habsent]
    cases firstAbsent s.codes (inBytes s 0 s.inLen.toNat) 0 <;> simp only [apply_ite complete] <;> rfl
  | frame =>
    simp only [bodyOf, frameBody, missingFlags_packed, apply_ite complete]
    rfl
  | parse =>
    have hparse : parseContainer (inByte (s.finish e info b)) (s.finish e info b).inLen.toNat =
        parseContainer (inByte s) s.inLen.toNat := rfl
    simp only [bodyOf, parseBody, apply_ite complete, hparse]
    cases parseContainer (inByte s) s.inLen.toNat <;> rfl
  | unpack =>
    have hdecode : decodeBits (s.finish e info b).nodes (s.finish e info b).root (s.finish e info b).outCap
        (retainedBits (s.finish e info b)) = decodeBits s.nodes s.root s.outCap (retainedBits s) := rfl
    simp only [bodyOf, unpackBody, missingFlags_treeValid_parsed, apply_ite complete, hdecode]
    cases decodeBits s.nodes s.root s.outCap (retainedBits s) <;> rfl
  | compress => exact absurd rfl hc
  | decompress => exact absurd rfl hd

/-! The chain of CORE steps. -/

/-- The CORE steps of a run of step commands end as the run of their bodies does: only the last completion, or that of
the first error, is left. -/
theorem runChain_finish {is : List Instr} (his : ∀ j ∈ is, j ≠ .compress ∧ j ≠ .decompress) (s : State) :
    runChain is (s.finish .none 0 false) = some (complete (runSteps (is.map bodyOf) s)) := by
  induction is generalizing s with
  | nil => rfl
  | cons j is ih =>
    obtain ⟨⟨hc, hd⟩, hrest⟩ := List.forall_mem_cons.1 his
    rw [runChain, exec_eq_complete, complete_bodyOf_finish hc hd, List.map_cons]
    cases hbody : bodyOf j s with
    | done u =>
      rw [runSteps_done _ hbody]
      exact ih hrest u
    | raised u e info =>
      rw [runSteps_raised _ hbody]
      rfl

/-- A chain may start from a completed state as well: its first step cannot tell. -/
theorem runChain_cons_finish {j : Instr} (hc : j ≠ .compress) (hd : j ≠ .decompress) (is : List Instr) (s : State) :
    runChain (j :: is) (s.finish .none 0 false) = runChain (j :: is) s := by
  rw [runChain, runChain, exec_eq_complete, exec_eq_complete, complete_bodyOf_finish hc hd]

/-- A composite is the chain of the CORE steps of its step commands. -/
theorem runChain_stepsOf {i j : Instr} {is : List Instr} (hi : i = .compress ∨ i = .decompress)
    (hsteps : stepsOf i = j :: is) (s : State) : runChain (j :: is) s = some (complete (bodyOf i s)) := by
  have his : ∀ k ∈ j :: is, k ≠ .compress ∧ k ≠ .decompress := fun k hk =>
    not_composite_of_mem_stepsOf (hsteps ▸ hk)
  obtain ⟨hc, hd⟩ := his j (List.mem_cons_self ..)
  rw [← runChain_cons_finish hc hd, runChain_finish his, bodyOf_composite hi, hsteps]

/-- Settles O32: no step reads what the completion before it wrote, so the chain commits what the bodies do. -/
theorem compositesRunTheirSteps : Obligations.CompositesRunTheirSteps := fun s =>
  ⟨⟨_, exec_eq_complete .compress s, runChain_stepsOf (.inl rfl) rfl s⟩,
    _, exec_eq_complete .decompress s, runChain_stepsOf (.inr rfl) rfl s⟩

/-! The prerequisite flags (R221). -/

theorem missingFlags_treeValid_eq_zero {s : State} : missingFlags s treeValidBit = 0 ↔ s.treeValid = true := by
  rw [missingFlags_treeValid]
  cases s.treeValid <;> decide

theorem missingFlags_codesValid_eq_zero {s : State} : missingFlags s codesValidBit = 0 ↔ s.codesValid = true := by
  rw [missingFlags_codesValid]
  cases s.codesValid <;> decide

theorem missingFlags_packed_eq_zero {s : State} : missingFlags s packedBit = 0 ↔ s.packed = true := by
  rw [missingFlags_packed]
  cases s.packed <;> decide

theorem missingFlags_treeValid_parsed_eq_zero {s : State} :
    missingFlags s (treeValidBit ||| parsedBit) = 0 ↔ s.treeValid = true ∧ s.parsed = true := by
  rw [missingFlags_treeValid_parsed]
  cases s.treeValid <;> cases s.parsed <;> decide

/-- A command that misses a flag raises SEQUENCE with the mask of those it misses. -/
theorem bodyOf_of_missing {i : Instr} {s : State} (h : missingFlags s (neededFlags i) ≠ 0) :
    bodyOf i s = .raised s .sequence (missingFlags s (neededFlags i)).toNat := by
  cases i with
  | genCodes | pack | frame | unpack => exact if_pos h
  | _ => exact absurd BitVec.zero_and h

/-- A body does not end in SEQUENCE. -/
def Result.NotSequence (r : Result) : Prop := ∀ t info, r ≠ .raised t .sequence info

theorem Result.NotSequence.done (s : State) : (Result.done s).NotSequence := fun _ _ => Result.noConfusion

/-- A step command that misses no flag does not raise SEQUENCE. -/
theorem stepBody_notSequence {j : Instr} (hc : j ≠ .compress) (hd : j ≠ .decompress) {s : State}
    (hflags : missingFlags s (neededFlags j) = 0) : (bodyOf j s).NotSequence := by
  intro t info h
  cases j with
  | genCodes =>
    have htree := missingFlags_treeValid_eq_zero.1 hflags
    rcases genCodesBody_cases s with ⟨hmissing, -⟩ | ⟨-, hbody⟩
    · cases htree.symm.trans hmissing
    · cases hbody.symm.trans h
  | pack =>
    have hcodes := missingFlags_codesValid_eq_zero.1 hflags
    rcases packBody_cases s with ⟨hmissing, -⟩ | ⟨-, -, hbody⟩ | ⟨-, -, _, -, hbody⟩ |
      ⟨-, -, -, _, _, -, -, ⟨-, hbody⟩ | ⟨-, hbody⟩⟩
    · cases hcodes.symm.trans hmissing
    all_goals cases hbody.symm.trans h
  | frame =>
    have hpacked := missingFlags_packed_eq_zero.1 hflags
    rcases frameBody_cases s with ⟨hmissing, -⟩ | ⟨-, hbody⟩
    · cases hpacked.symm.trans hmissing
    · cases hbody.symm.trans h
  | unpack =>
    obtain ⟨htree, hparsed⟩ := missingFlags_treeValid_parsed_eq_zero.1 hflags
    rcases unpackBody_cases s with ⟨hmissing, -⟩ | ⟨-, -, e, he, hbody⟩ | ⟨-, -, _, -, hbody⟩
    · simp [htree, hparsed] at hmissing
    · obtain ⟨-, hcode, -⟩ := Result.raised.inj (hbody.symm.trans h)
      simpa [hcode] using decodeBits_error he
    · cases hbody.symm.trans h
  | _ => simpa [allowedErrors] using stepBody_raised_allowed hc hd h

/-- A run of steps does not end in SEQUENCE if the first one misses no flag and leaves the others what they need. -/
theorem runSteps_notSequence {j : Instr} (hc : j ≠ .compress) (hd : j ≠ .decompress) {s : State}
    {rest : List (State → Result)} (hflags : missingFlags s (neededFlags j) = 0)
    (hrest : ∀ u, bodyOf j s = .done u → (runSteps rest u).NotSequence) :
    (runSteps (bodyOf j :: rest) s).NotSequence := by
  intro t info h
  cases hbody : bodyOf j s with
  | done u => exact hrest u hbody t info ((runSteps_done rest hbody).symm.trans h)
  | raised u e info' =>
    cases (runSteps_raised rest hbody).symm.trans h
    exact stepBody_notSequence hc hd hflags u info hbody

/-! The flags the steps of a composite set for the steps behind them. -/

theorem buildTreeBody_done_flags {s t : State} (h : buildTreeBody s = .done t) :
    t.treeValid = true ∧ t.parsed = s.parsed := by
  rcases buildTreeBody_cases s with ⟨_, -, hbody⟩ | ⟨-, hbody⟩ <;> cases hbody.symm.trans h
  exact ⟨rfl, rfl⟩

theorem genCodesBody_done_flags {s t : State} (h : genCodesBody s = .done t) : t.codesValid = true := by
  rcases genCodesBody_cases s with ⟨-, hbody⟩ | ⟨-, hbody⟩ <;> cases hbody.symm.trans h
  rfl

theorem packBody_done_flags {s t : State} (h : packBody s = .done t) : t.packed = true := by
  obtain ⟨-, -, rfl⟩ := packBody_done h
  rfl

theorem parseBody_done_flags {s t : State} (h : parseBody s = .done t) : t.parsed = true := by
  rcases parseBody_cases s with ⟨-, hbody⟩ | ⟨-, _, -, hbody⟩ | ⟨-, _, -, hbody⟩ <;> cases hbody.symm.trans h
  rfl

/-- In COMPRESS each step finds the flag it needs set by the step before it. -/
theorem compressBody_notSequence (s : State) : (compressBody s).NotSequence := by
  refine runSteps_notSequence (j := .freqScan) nofun nofun BitVec.zero_and fun s1 _ => ?_
  refine runSteps_notSequence (j := .buildTree) nofun nofun BitVec.zero_and fun s2 htree => ?_
  have hgen := missingFlags_treeValid_eq_zero.2 (buildTreeBody_done_flags htree).1
  refine runSteps_notSequence (j := .genCodes) nofun nofun hgen fun s3 hcodes => ?_
  have hpack := missingFlags_codesValid_eq_zero.2 (genCodesBody_done_flags hcodes)
  refine runSteps_notSequence (j := .pack) nofun nofun hpack fun s4 hpacked => ?_
  have hframe := missingFlags_packed_eq_zero.2 (packBody_done_flags hpacked)
  exact runSteps_notSequence (j := .frame) nofun nofun hframe fun s5 _ => .done s5

/-- In DECOMPRESS the two steps before UNPACK set the flags it needs. -/
theorem decompressBody_notSequence (s : State) : (decompressBody s).NotSequence := by
  refine runSteps_notSequence (j := .parse) nofun nofun BitVec.zero_and fun s1 hparse => ?_
  refine runSteps_notSequence (j := .buildTree) nofun nofun BitVec.zero_and fun s2 htree => ?_
  obtain ⟨htreeValid, hparsed⟩ := buildTreeBody_done_flags htree
  have hunpack := missingFlags_treeValid_parsed_eq_zero.2 ⟨htreeValid, hparsed.trans (parseBody_done_flags hparse)⟩
  exact runSteps_notSequence (j := .unpack) nofun nofun hunpack fun s3 _ => .done s3

/-- A command that misses no flag does not raise SEQUENCE, a composite in none of its steps. -/
theorem bodyOf_notSequence {i : Instr} {s : State} (hflags : missingFlags s (neededFlags i) = 0) :
    (bodyOf i s).NotSequence := by
  by_cases hc : i = .compress
  · exact hc ▸ compressBody_notSequence s
  by_cases hd : i = .decompress
  · exact hd ▸ decompressBody_notSequence s
  · exact stepBody_notSequence hc hd hflags

/-- Settles O39: the prerequisite check comes first in every command that needs a flag, and no other cause has its
code. -/
theorem missingPrerequisitesRaiseSequence : Obligations.MissingPrerequisitesRaiseSequence := by
  refine fun i s => ⟨fun hmissing => ?_, fun hflags t hexec => ?_⟩
  · obtain ⟨hexec, hfailed⟩ := exec_of_raised (bodyOf_of_missing hmissing)
    rw [errInfoWord_toNat] at hfailed
    exact ⟨_, hexec, hfailed, takeError_keepsResults s .sequence _, rfl⟩
  · rw [exec_eq_complete] at hexec
    cases hexec
    rcases complete_cases (bodyOf i s) with ⟨u, -, hcomplete⟩ | ⟨u, e, info, hbody, hcomplete⟩ <;> rw [hcomplete]
    · exact nofun
    · rintro rfl
      exact bodyOf_notSequence hflags u info hbody

end Sys2Proof.Machine
end

section
/-! PROOFS. COMPRESS whenever its container fits, and DECOMPRESS on a container whose bits are codes (46_control.md rules
R224 and R225). -/

namespace Sys2Proof.Machine

/-! COMPRESS. -/

theorem IsCode.ne_nil {nodes : Vector Node 511} {root : NodeIx} {code : BitString} {v : Byte}
    (h : IsCode nodes root code v) : code ≠ [] := by
  obtain ⟨-, ⟨rfl, -⟩ | ⟨hcode, -⟩⟩ := h
  · exact List.cons_ne_nil false []
  · exact hcode

/-- COMPRESS packs with a code for every input byte: each has a count that is not 0. -/
theorem readyToPack_coded (s : State) {b : Byte} (hb : b ∈ s.input) : codeOf (readyToPack s).codes b ≠ [] := by
  have hcount : freqOf (readyToPack s) b ≠ 0 := by
    show (countBytes s.input)[b.toNat]'b.isLt ≠ 0
    rw [countBytes_getElem]
    exact (ofNat_count_ne_zero_iff (input_length_lt s) b).2 hb
  exact (isCode_codesOf (readyToPack_treeFromFreq s) hcount).ne_nil

/-- The container COMPRESS makes is the one PACK leaves room for. -/
theorem packedSize_readyToPack (s : State) : packedSize (readyToPack s) = compressedSize s := by
  rw [packedSize, readyToPack_nsym]
  rfl

/-- When its container fits OUT_CAP, COMPRESS runs its five steps to the end (46_control.md R224). -/
theorem compressBody_of_fits {s : State} (hlen : s.inLen.toNat ≤ s.inCap) (hfits : compressedSize s ≤ s.outCap) :
    compressBody s = .done (headerWritten (payloadWritten (readyToPack s))) := by
  have hscan : freqScanBody s = .done (inputCounted s) :=
    ((freqScanBody_cases s).resolve_left fun h => (h.1.trans_le hlen).false).2
  have htree : buildTreeBody (inputCounted s) = .done (treeStored (inputCounted s)) :=
    buildTreeBody_of_total (freqTotal_countBytes_input_le s)
  have hcodes : genCodesBody (treeStored (inputCounted s)) = .done (readyToPack s) :=
    ((genCodesBody_cases _).resolve_left fun h => Bool.noConfusion h.1).2
  have hpack : packBody (readyToPack s) = .done (payloadWritten (readyToPack s)) := by
    rcases packBody_of_coded (s := readyToPack s) rfl hlen fun b => readyToPack_coded s with ⟨hfull, -⟩ | ⟨-, hbody⟩
    · rw [packedSize_readyToPack] at hfull
      exact absurd (hfull.trans_le hfits) (Nat.lt_irrefl _)
    · exact hbody
  have hframe : frameBody (payloadWritten (readyToPack s)) = .done (headerWritten (payloadWritten (readyToPack s))) :=
    ((frameBody_cases _).resolve_left fun h => Bool.noConfusion h.1).2
  rw [compressBody, runSteps_done _ hscan, runSteps_done _ htree, runSteps_done _ hcodes, runSteps_done _ hpack,
    runSteps_done _ hframe, runSteps_nil]

/-- COMPRESS writes no byte of OUT_MEM behind its container. -/
theorem container_keepsOutOutside (s : State) :
    KeepsOutOutside s (headerWritten (payloadWritten (readyToPack s))) 0 (compressedSize s) := by
  intro a ha
  rw [← packedSize_readyToPack] at ha
  have hbehind : packedSize (readyToPack s) ≤ a := ha.resolve_left (Nat.not_lt_zero a)
  have hheader : headerLen (tableSymbols (readyToPack s).freq).length ≤ packedSize (readyToPack s) := by
    rw [← readyToPack_nsym]
    exact Nat.le_add_right ..
  exact (headerWritten_keepsOutOutside (payloadWritten (readyToPack s)) a (.inr (hheader.trans hbehind))).trans
    (payloadWritten_keepsOutOutside (readyToPack s) a (.inr hbehind))

/-- Settles O33: the five bodies are done, and each part of the container is what one of them leaves. -/
theorem compressMakesTheContainer : Obligations.CompressMakesTheContainer := by
  intro s hcaps hlen hfits
  obtain ⟨hexec, hsucceeded⟩ := exec_of_done (i := .compress) (compressBody_of_fits hlen hfits)
  obtain ⟨houtLen, hpad, hbitlen⟩ := payloadWritten_regs (s := readyToPack s) hcaps
    ((packedSize_readyToPack s).trans_le hfits)
  have hcount (v : Byte) : (freqOf (readyToPack s) v).toNat = s.input.count v := by
    show ((countBytes s.input)[v.toNat]'v.isLt).toNat = _
    rw [countBytes_getElem, toNat_ofNat_count (input_length_lt s)]
  refine ⟨_, bitStream (readyToPack s).codes s.input, bitsToBytes (padded (bitStream (readyToPack s).codes s.input)),
    hexec, hsucceeded, rfl, rfl, rfl, rfl, hcount, readyToPack_treeFromFreq s, rfl, rfl, hbitlen, hpad, ?_,
    compressed_container hcaps hexec rfl, houtLen.trans (packedSize_readyToPack s), ⟨rfl, rfl⟩,
    container_keepsOutOutside s⟩
  rw [bytesToBits_bitsToBytes _ (by rw [padded_length, Nat.mul_mod_right]), padded]
  exact congrArg (fun n => _ ++ List.replicate n false) hpad.symm

/-! DECOMPRESS. -/

/-- Settles O35: the three bodies are done, and the codes of the table are those of the tree that BUILD_TREE stores. -/
theorem decompressDecodesTheContainer : Obligations.DecompressDecodesTheContainer := by
  intro s f pad payload out hcaps hlen hinput hpad htotal hsyms hbits hfits
  obtain ⟨hexec, hsucceeded⟩ := exec_of_done (i := .decompress)
    (decompressBody_of_container hlen hinput hpad htotal hsyms rfl hbits hfits)
  obtain ⟨hoff, hsize, -⟩ := containerParsed_payload (pad := pad) hinput
  obtain ⟨-, -, -, hcap⟩ := hcaps
  have houtLen : (BitVec.ofNat 32 out.length).toNat = out.length := Nat.mod_eq_of_lt (by omega)
  have hbitlen : (BitVec.ofNat 64 (retainedBits (readyToUnpack s f pad payload.length)).length).toNat =
      8 * payload.length - pad.toNat := by
    rw [BitVec.toNat_ofNat, Nat.mod_eq_of_lt ((retainedBits_length_lt _).trans (by decide)), retainedBits_length]
    exact congrArg (fun n => 8 * n - pad.toNat) hsize
  refine ⟨_, hexec, hsucceeded, houtLen, outBytes_bytesUnpacked _ out, hbitlen, rfl, rfl,
    readyToUnpack_treeFromFreq htotal _, hoff, hsize, rfl, rfl, rfl, rfl, rfl, fun a ha => ?_⟩
  exact outByte_writeBytes_outside (s := s) (t := bytesUnpacked (readyToUnpack s f pad payload.length) out) rfl rfl
    (by rwa [Nat.zero_add])

end Sys2Proof.Machine
end

section
/-! PROOFS. The errors of the commands: their codes (60_exceptions.md rule R234), their effects (R237 and R238), and the
same error on a retry (R241). -/

namespace Sys2Proof.Machine

/-! The codes (R234). -/

/-- Within IN_CAP the first three steps of COMPRESS are done and leave it ready to pack (46_control.md R224). -/
theorem compressBody_of_inLen_le {s : State} (hlen : s.inLen.toNat ≤ s.inCap) :
    compressBody s = runSteps [packBody, frameBody] (readyToPack s) := by
  have hscan : freqScanBody s = .done (inputCounted s) :=
    ((freqScanBody_cases s).resolve_left fun h => (h.1.trans_le hlen).false).2
  have htree : buildTreeBody (inputCounted s) = .done (treeStored (inputCounted s)) :=
    buildTreeBody_of_total (freqTotal_countBytes_input_le s)
  have hcodes : genCodesBody (treeStored (inputCounted s)) = .done (readyToPack s) :=
    ((genCodesBody_cases _).resolve_left fun h => Bool.noConfusion h.1).2
  rw [compressBody, runSteps_done _ hscan, runSteps_done _ htree, runSteps_done _ hcodes]

/-- COMPRESS fails in its first step or in PACK, where every byte of the input has a code (46_control.md R224). -/
theorem compressBody_raised_allowed {s t : State} {e : ErrCode} {info : Nat}
    (h : compressBody s = .raised t e info) : e ∈ allowedErrors .compress := by
  rcases freqScanBody_cases s with ⟨-, hscan⟩ | ⟨hlen, -⟩
  · cases (runSteps_raised _ hscan).symm.trans h
    exact List.mem_cons_self ..
  · rcases packBody_of_coded (s := readyToPack s) rfl hlen fun b => readyToPack_coded s with ⟨-, hpack⟩ | ⟨hfits, -⟩
    · rw [compressBody_of_inLen_le hlen, runSteps_raised _ hpack] at h
      cases h
      exact List.mem_cons_of_mem _ (List.mem_cons_self ..)
    · rw [packedSize_readyToPack] at hfits
      cases (compressBody_of_fits hlen hfits).symm.trans h

/-- DECOMPRESS fails with an error of one of its steps, but not with SEQUENCE (46_control.md R225). -/
theorem decompressBody_raised_allowed {s t : State} {e : ErrCode} {info : Nat}
    (h : decompressBody s = .raised t e info) : e ∈ allowedErrors .decompress := by
  have hne : e ≠ .sequence := by
    rintro rfl
    exact decompressBody_notSequence s t info h
  obtain ⟨j, hj, u, v, hstep⟩ := bodyOf_raised_by (i := .decompress) h
  obtain ⟨hc, hd⟩ := not_composite_of_mem_stepsOf hj
  have hsteps : ∀ j ∈ stepsOf .decompress, ∀ e ∈ allowedErrors j, e ≠ .sequence → e ∈ allowedErrors .decompress := by
    decide
  exact hsteps j hj e (stepBody_raised_allowed hc hd hstep) hne

/-- Every error a command raises is of its row of 60_exceptions.md R234. -/
theorem bodyOf_raised_allowed {i : Instr} {s t : State} {e : ErrCode} {info : Nat}
    (h : bodyOf i s = .raised t e info) : e ∈ allowedErrors i := by
  by_cases hc : i = .compress
  · subst hc
    exact compressBody_raised_allowed h
  by_cases hd : i = .decompress
  · subst hd
    exact decompressBody_raised_allowed h
  exact stepBody_raised_allowed hc hd h

/-- A command ends with the error its body raised, or with no error code. -/
theorem exec_error_cases {i : Instr} {s t : State} (h : exec i s = .next t) :
    (t.err = false ∧ t.errCode = .none) ∨
    ∃ u e info, bodyOf i s = .raised u e info ∧ t = u.takeError e info := by
  rw [exec_eq_complete] at h
  cases h
  rcases complete_cases (bodyOf i s) with ⟨u, -, hdone⟩ | ⟨u, e, info, hbody, herror⟩
  · rw [hdone]
    exact .inl ⟨rfl, rfl⟩
  · exact .inr ⟨u, e, info, hbody, herror⟩

/-- Settles O34: a body raises only what its row lists, since in COMPRESS the counts sum to IN_LEN and every input byte
has a code, and no composite misses a flag. -/
theorem onlyTheListedErrorCodes : Obligations.OnlyTheListedErrorCodes := by
  intro i s t hexec
  rcases exec_error_cases hexec with ⟨-, hnone⟩ | ⟨u, e, info, hbody, rfl⟩
  · exact .inl hnone
  · exact .inr (bodyOf_raised_allowed hbody)

/-! The effects (R237, R238). -/

/-- The codes of the errors that PACK and UNPACK find while they work on the data (60_exceptions.md R238). -/
abbrev ErrCode.isDataPhase (e : ErrCode) : Prop := e = .symbolAbsent ∨ e = .outOverflow ∨ e = .desync

/-- `ErrorEffects s j e u`: a step command `j` that raises `e` in the state `s` does so with the state at `u`. -/
inductive ErrorEffects (s : State) : Instr → ErrCode → State → Prop
  /-- Nothing has changed (60_exceptions.md R237). -/
  | unchanged {j : Instr} {e : ErrCode} (he : ¬ e.isDataPhase) (hj : j = .parse → e = .inLenRange) :
      ErrorEffects s j e s
  /-- A MalformedContainer error of PARSE has cleared PARSED (60_exceptions.md R237). -/
  | unparsed {e : ErrCode} (he : ¬ e.isDataPhase) (hrange : e ≠ .inLenRange) :
      ErrorEffects s .parse e { s with parsed := false }
  /-- A data-phase error has drawn the output (60_exceptions.md R238). -/
  | dataPhase {j : Instr} {e : ErrCode} (he : e.isDataPhase) (hj : j = .pack ∨ j = .unpack) :
      ErrorEffects s j e s.dataPhaseError

/-- A container is refused with no data-phase code, and not with IN_LEN_RANGE. -/
theorem parseContainer_error_effects {read : Nat → Byte} {nb : Nat} {e : ErrCode × Nat}
    (h : parseContainer read nb = .error e) : ¬ e.1.isDataPhase ∧ e.1 ≠ .inLenRange := by
  have hcodes : ∀ c ∈ [ErrCode.mcShortHeader, .mcLength, .mcTableFormat, .mcTableOrder, .mcTableZero, .mcPadding,
      .mcPadEmpty], ¬ c.isDataPhase ∧ c ≠ .inLenRange := by decide
  exact hcodes e.1 (parseContainer_error h)

/-- The errors of the step commands and their effects: all that a raised error can leave. -/
theorem stepBody_raised_effects {j : Instr} (hc : j ≠ .compress) (hd : j ≠ .decompress) {s u : State} {e : ErrCode}
    {info : Nat} (h : bodyOf j s = .raised u e info) : ErrorEffects s j e u := by
  cases j with
  | clear => cases h
  | freqScan =>
    rcases freqScanBody_cases s with ⟨-, hbody⟩ | ⟨-, hbody⟩ <;> cases hbody.symm.trans h
    exact .unchanged (by decide) nofun
  | buildTree =>
    rcases buildTreeBody_cases s with ⟨_, -, hbody⟩ | ⟨-, hbody⟩ <;> cases hbody.symm.trans h
    exact .unchanged (by decide) nofun
  | genCodes =>
    rcases genCodesBody_cases s with ⟨-, hbody⟩ | ⟨-, hbody⟩ <;> cases hbody.symm.trans h
    exact .unchanged (by decide) nofun
  | pack =>
    rcases packBody_cases s with ⟨-, hbody⟩ | ⟨-, -, hbody⟩ | ⟨-, -, _, -, hbody⟩ |
      ⟨-, -, -, _, _, -, -, ⟨-, hbody⟩ | ⟨-, hbody⟩⟩ <;> cases hbody.symm.trans h
    · exact .unchanged (by decide) nofun
    · exact .unchanged (by decide) nofun
    · exact .dataPhase (by decide) (.inl rfl)
    · exact .dataPhase (by decide) (.inl rfl)
  | frame =>
    rcases frameBody_cases s with ⟨-, hbody⟩ | ⟨-, hbody⟩ <;> cases hbody.symm.trans h
    exact .unchanged (by decide) nofun
  | parse =>
    rcases parseBody_cases s with ⟨-, hbody⟩ | ⟨-, _, he, hbody⟩ | ⟨-, _, -, hbody⟩ <;> cases hbody.symm.trans h
    · exact .unchanged (by decide) fun _ => rfl
    · obtain ⟨hcode, hrange⟩ := parseContainer_error_effects he
      exact .unparsed hcode hrange
  | unpack =>
    rcases unpackBody_cases s with ⟨-, _, hbody⟩ | ⟨-, -, _, he, hbody⟩ | ⟨-, -, _, -, hbody⟩ <;>
      cases hbody.symm.trans h
    · exact .unchanged (by decide) nofun
    · exact .dataPhase (.inr (decodeBits_error he)) (.inr rfl)
  | compress => exact absurd rfl hc
  | decompress => exact absurd rfl hd
  | illegalOpcode00 | illegalOpcode0BFF | illegalRsvd =>
    cases h
    exact .unchanged (by decide) nofun

/-! The retry (R241). -/

/-- The error a body ends in, with its information word, if it ends in one. -/
def Result.raisedError : Result → Option (ErrCode × Nat)
  | .done _ => none
  | .raised _ e info => some (e, info)

@[simp] theorem Result.raisedError_done (s : State) : (Result.done s).raisedError = none := rfl

@[simp] theorem Result.raisedError_raised (s : State) (e : ErrCode) (info : Nat) :
    (Result.raised s e info).raisedError = some (e, info) := rfl

theorem Result.exists_of_raisedError {r : Result} {e : ErrCode} {info : Nat} (h : r.raisedError = some (e, info)) :
    ∃ u, r = .raised u e info := by
  cases r with
  | done s => cases h
  | raised u e' info' =>
    cases h
    exact ⟨u, rfl⟩

/-- `t` holds what `s` holds wherever the error of the step command `j` can depend on it. PACKED decides an error of
FRAME alone, PARSED one of UNPACK alone. -/
structure SameErrorOperands (j : Instr) (s t : State) : Prop where
  cmd : t.cmd = s.cmd
  inLen : t.inLen = s.inLen
  inCap : t.inCap = s.inCap
  outCap : t.outCap = s.outCap
  inByte : inByte t = inByte s
  freq : t.freq = s.freq
  nodes : t.nodes = s.nodes
  nsym : t.nsym = s.nsym
  root : t.root = s.root
  codes : t.codes = s.codes
  retainedBits : retainedBits t = retainedBits s
  treeValid : t.treeValid = s.treeValid
  codesValid : t.codesValid = s.codesValid
  packed : j = .frame → t.packed = s.packed
  parsed : j = .unpack → t.parsed = s.parsed

/-- With the same operands a step command ends in the same error, or in none again. -/
theorem SameErrorOperands.raisedError_eq {j : Instr} (hc : j ≠ .compress) (hd : j ≠ .decompress) {s t : State}
    (h : SameErrorOperands j s t) : (bodyOf j t).raisedError = (bodyOf j s).raisedError := by
  cases j with
  | clear => rfl
  | freqScan =>
    simp only [bodyOf, freqScanBody, h.inLen, h.inCap, apply_ite Result.raisedError, Result.raisedError_raised,
      Result.raisedError_done]
  | buildTree =>
    simp only [bodyOf, buildTreeBody, h.freq]
    cases overflowSymbol s.freq.toList 0 0 <;> rfl
  | genCodes =>
    simp only [bodyOf, genCodesBody, missingFlags_treeValid, h.treeValid, apply_ite Result.raisedError,
      Result.raisedError_raised, Result.raisedError_done]
  | pack =>
    have hinput (n : Nat) : inBytes t 0 n = inBytes s 0 n := by simp only [inBytes, h.inByte]
    simp only [bodyOf, packBody, missingFlags_codesValid, hinput, h.codesValid, h.inLen, h.inCap, h.outCap, h.codes,
      h.nsym, apply_ite Result.raisedError, Result.raisedError_raised]
    cases firstAbsent s.codes (inBytes s 0 s.inLen.toNat) 0 <;>
      simp only [apply_ite Result.raisedError, Result.raisedError_raised, Result.raisedError_done]
  | frame =>
    simp only [bodyOf, frameBody, missingFlags_packed, h.packed rfl, apply_ite Result.raisedError,
      Result.raisedError_raised, Result.raisedError_done]
  | parse =>
    simp only [bodyOf, parseBody, h.inLen, h.inCap, h.inByte, apply_ite Result.raisedError, Result.raisedError_raised]
    cases parseContainer (Machine.inByte s) s.inLen.toNat <;> rfl
  | unpack =>
    simp only [bodyOf, unpackBody, missingFlags_treeValid_parsed, h.treeValid, h.parsed rfl, h.nodes, h.root, h.outCap,
      h.retainedBits, apply_ite Result.raisedError, Result.raisedError_raised]
    cases decodeBits s.nodes s.root s.outCap (Machine.retainedBits s) <;> rfl
  | compress => exact absurd rfl hc
  | decompress => exact absurd rfl hd
  | illegalOpcode00 | illegalOpcode0BFF | illegalRsvd =>
    simp only [bodyOf, illegalBody, Result.raisedError_raised, h.cmd]

/-- The effects of an error leave the failed command the operands of its error, and so does the acceptance of its word
again. -/
theorem ErrorEffects.sameErrorOperands {s u : State} {j : Instr} {e : ErrCode} (h : ErrorEffects s j e u)
    (info : Nat) : SameErrorOperands j s ((u.takeError e info).accept s.cmd) := by
  cases h with
  | unchanged he hj =>
    exact ⟨rfl, rfl, rfl, rfl, rfl, rfl, rfl, rfl, rfl, rfl, rfl, rfl, rfl, fun _ => rfl, fun _ => rfl⟩
  | unparsed he hrange =>
    exact ⟨rfl, rfl, rfl, rfl, rfl, rfl, rfl, rfl, rfl, rfl, rfl, rfl, rfl, fun _ => rfl, nofun⟩
  | dataPhase he hj =>
    refine ⟨rfl, rfl, rfl, rfl, rfl, rfl, rfl, rfl, rfl, rfl, rfl, rfl, rfl, ?_, fun _ => rfl⟩
    rintro rfl
    simp at hj

/-- A step command that ended in an error ends in it again when its word is accepted again. -/
theorem stepBody_raised_failsAgain {j : Instr} (hc : j ≠ .compress) (hd : j ≠ .decompress) {s u : State}
    {e : ErrCode} {info : Nat} (h : bodyOf j s = .raised u e info) : FailsAgain j s (u.takeError e info) := by
  have hsame := (stepBody_raised_effects hc hd h).sameErrorOperands info
  have herror : (bodyOf j ((u.takeError e info).accept s.cmd)).raisedError = some (e, info) := by
    rw [hsame.raisedError_eq hc hd, h, Result.raisedError_raised]
  obtain ⟨v, hbody⟩ := Result.exists_of_raisedError herror
  exact ⟨_, (exec_of_raised hbody).1, rfl, rfl, rfl⟩

/-- Settles O40: of the effects an error can have, only the two without a draw go with these codes. -/
theorem errorsArePrecise : Obligations.ErrorsArePrecise := by
  intro i s t hc hd hexec herr habsent hoverflow hdesync
  rcases exec_error_cases hexec with ⟨hfalse, -⟩ | ⟨u, e, info, hbody, rfl⟩
  · cases hfalse.symm.trans herr
  obtain ⟨-, hcompleted, -⟩ := exec_of_raised hbody
  have hagain := stepBody_raised_failsAgain hc hd hbody
  cases stepBody_raised_effects hc hd hbody with
  | unchanged he hj =>
    refine ⟨hcompleted, takeError_keepsResults s e info, (if_neg ?_).symm, hagain⟩
    exact fun h => h.2 (hj h.1)
  | unparsed he hrange =>
    exact ⟨hcompleted, takeError_keepsResults s e info, (if_pos ⟨rfl, hrange⟩).symm, hagain⟩
  | dataPhase he hj =>
    rcases he with rfl | rfl | rfl
    · exact absurd rfl habsent
    · exact absurd rfl hoverflow
    · exact absurd rfl hdesync

/-- Settles O41: of the effects an error can have, only the data-phase draw goes with these codes. -/
theorem dataPhaseErrorsDrawTheOutput : Obligations.DataPhaseErrorsDrawTheOutput := by
  intro i s t hc hd hexec hcode
  rcases exec_error_cases hexec with ⟨-, hnone⟩ | ⟨u, e, info, hbody, rfl⟩
  · rw [hnone] at hcode
    exact absurd hcode (by decide)
  obtain ⟨-, hcompleted, -⟩ := exec_of_raised hbody
  have hagain := stepBody_raised_failsAgain hc hd hbody
  cases stepBody_raised_effects hc hd hbody with
  | unchanged he hj => exact absurd hcode he
  | unparsed he hrange => exact absurd hcode he
  | dataPhase he hj => exact ⟨hj, hcompleted, rfl, takeError_dataPhaseFailed s e info, hagain⟩

end Sys2Proof.Machine
end

section
/-! PROOFS. COMPRESS as a function of the input bytes alone (70_reset_and_hazards.md rule R277). -/

namespace Sys2Proof.Machine

/-- Equal inputs have equal codes, whatever the node stores held before (41_tree_builder.md R159 item 5). -/
theorem readyToPack_codes_eq {s u : State} (hinput : u.input = s.input) :
    (readyToPack u).codes = (readyToPack s).codes :=
  codesOf_eq_of_treeFromFreq (readyToPack_treeFromFreq u) (readyToPack_treeFromFreq s) (congrArg countBytes hinput)

/-- Settles O37: a container is made of the input's counts and the codes of their tree, and its bytes say its length. -/
theorem compressDependsOnTheInputAlone : Obligations.CompressDependsOnTheInputAlone := by
  intro s u t v hs hu hinput hexec hexec' herr herr'
  have hbytes : outBytes v 0 v.outLen.toNat = outBytes t 0 t.outLen.toNat := by
    rw [compressed_container hu hexec' herr', compressed_container hs hexec herr, hinput, readyToPack_codes_eq hinput]
  have hlength := congrArg List.length hbytes
  rw [outBytes_length, outBytes_length] at hlength
  exact ⟨BitVec.eq_of_toNat_eq hlength, hbytes⟩

end Sys2Proof.Machine
end
